-- ==== Sys2Proof/Word.lean ====
section
/-! DEFINITION. The word types of the block: bytes of the two streams and of the frame buffer, and the signed 16-bit
result registers (00_scope.md R11, R12; 10_state.md R20). -/

namespace Sys2Proof

/-- A byte, 0 to 255, bits numbered from 0 at the least significant (R11). -/
abbrev Byte := BitVec 8

/-- A result register, 16 bits, signed (R24). -/
abbrev Word16 := BitVec 16

end Sys2Proof
end

