-- ==== Sys2Proof/Config.lean ====
section
/-! DEFINITION. What is fixed when the block is constructed: the constants of the wire protocol (00_scope.md R9), the sizes
of R10, and the construction parameters the spec keeps open or names a second value for (R10, 10_state.md R26). -/

namespace Sys2Proof

/-- The constants of the wire protocol, each a configuration field whose default is the printed value (R9, 93 U12): fixed at
construction, read by the rules that name them, written by nothing (R26). UNVERIFIED, unsafe: the printed values are
unaudited; what other values do is log 11. -/
structure Constants where
  /-- `HDR_REAL`, each of the two marker bytes of a real frame. -/
  hdrReal : Byte := 0xFE
  /-- `HDR_CHAT`, each of the two marker bytes of a chatter frame. -/
  hdrChat : Byte := 0xFF
  /-- `FOOTER`, the footer value the protocol defines; no rule compares it with anything (R80; log 30). -/
  footer : Byte := 0xFA
  /-- `CMD_GET_ANGLES`, the command code of the document's examples; no rule reads it (R98). -/
  cmdGetAngles : Byte := 0x20
  /-- `CMD_IS_SERVO_ENABLE`, the one special case of the dispatch (R207). -/
  cmdIsServoEnable : Byte := 0x50
  /-- `LEN_OVERHEAD`, the bytes counted by the length byte that are not payload. -/
  lenOverhead : Int := 2
  /-- `BL_LIST_A`, the body length decoded as six 16-bit values. -/
  blListA : Int := 12
  /-- `BL_LIST_B`, the body length decoded as four 16-bit values. -/
  blListB : Int := 8
  /-- `BL_PAIR`, the body length decoded as one 16-bit value, or as the special case. -/
  blPair : Int := 2
  /-- `ANGLE_SCALE`, integer units per degree, at least 1, so that the division of R133 has a quotient. -/
  angleScale : ℕ+ := 100
  /-- `COORD_SCALE`, integer units per millimetre, at least 1 (R134). -/
  coordScale : ℕ+ := 10
  /-- `UNWRAP_SENTINEL`, what `unwrapSingle` gives for an empty result (R212). -/
  unwrapSentinel : Int := -1
  deriving DecidableEq, Repr

/-- The constants with the values that the document prints (R9). -/
def Constants.printed : Constants := {}

namespace Config

/-- The width of `SKIPPED` (R10). UNVERIFIED: the spec's own decision D7 (log 18). -/
abbrev skipW : Nat := 32

/-- The capacity of the frame buffer in bytes (R10). -/
def fbMax : Nat := 258

/-- The number of result registers (R10). -/
def resN : Nat := 6

end Config

/-- What `DECODE` does with a body length other than 1, 2, 8 and 12 (R10, R209). -/
inductive OtherLenPolicy where
  | firstByte
  | empty
  deriving DecidableEq, Repr

/-- What `rnd` does with a value exactly halfway between two integers (R10, R135). The spec takes `toEven` and keeps the
rule a named parameter (D5). DESIGN CHOICE, safe: the four other rules are the model's list (log 12). -/
inductive TieRule where
  | toEven
  | awayFromZero
  | towardZero
  | up
  | down
  deriving DecidableEq, Repr

/-- What is fixed at construction and written by nothing afterwards (R26). -/
structure Construction where
  /-- The constants of the wire protocol (R9). -/
  constants : Constants := .printed
  /-- `CFG.PRE_READ`; `none` is the only value the spec admits (R26). -/
  preRead : Option Nat := none
  /-- `OTHERLEN_POLICY`; `firstByte` is the value taken (R10). -/
  otherLen : OtherLenPolicy := .firstByte
  /-- `TIE_RULE`; `toEven` is the value taken (R10). -/
  tieRule : TieRule := .toEven
  deriving DecidableEq, Repr

end Sys2Proof
end

