-- ==== Sys2Proof/Syntax.lean ====
section
/-! DEFINITION. The syntax: one constructor of `Instr` per row of spec/opcode_table.json, the operand types, and the
three forms in which an instruction is presented to the block (30_encoding.md R83, R85, R95). -/

namespace Sys2Proof

/-- A sequence of items, each a scalar or a sequence, of any depth (42_codec_payload.md R150): the empty sequence, or a
first item followed by the rest. A scalar is a number, an exact rational (00_scope.md R10 `PHYS`; log 15). -/
inductive Nested where
  | nil
  | scalar (v : Rat) (rest : Nested)
  | seq (inner rest : Nested)
  deriving DecidableEq, Repr

/-- The token form of a nested sequence (R150). -/
inductive Token where
  | openSeq
  | closeSeq
  | scalar (v : Rat)
  deriving DecidableEq, Repr

/-- An item of `buildCommandPayload`'s argument list: a scalar, or a flat sequence of integers (R153, R154). -/
inductive Arg where
  | scalar (v : Rat)
  | numbers (vs : List Int)
  deriving DecidableEq, Repr

/-- The rows of the opcode table. -/
inductive Instr where
  /-- `HDR.CHATTER`: a header `FF FF instr` (R83, R174). -/
  | hdrChatter (instr : Byte)
  /-- `HDR.FRAME`: a header `FE FE len` (R83, R176). -/
  | hdrFrame (len : Byte)
  /-- `HDR.DESYNC`: any other header, and any header read of fewer than three bytes (R83, R177). -/
  | hdrDesync (h : List Byte)
  /-- `DEC.LIST6`: declared length 14 (R85, R205). -/
  | decList6 (cmd : Byte)
  /-- `DEC.LIST4`: declared length 10 (R85, R205). -/
  | decList4 (cmd : Byte)
  /-- `DEC.S8SEC`: declared length 4, command 0x50 (R85, R207). -/
  | decS8Sec
  /-- `DEC.S16`: declared length 4, any other command (R85, R206). -/
  | decS16 (cmd : Byte)
  /-- `DEC.S8`: declared length 3 (R85, R208). -/
  | decS8 (cmd : Byte)
  /-- `DEC.SHORT`: declared length 0, 1 or 2; a frame of length 0 has no command byte (R85, R203). -/
  | decShort (len : Byte) (cmd : Option Byte)
  /-- `DEC.OTHER`: every other declared length (R85, R209). -/
  | decOther (len cmd : Byte)
  /-- `OP` 0 (R111). -/
  | encodeInt8 (value : Int)
  /-- `OP` 1 (R112). -/
  | encodeInt16 (value : Int)
  /-- `OP` 2, of exactly one byte (R114, R116). -/
  | decodeInt8 (b : Byte)
  /-- `OP` 3, of exactly two bytes, high byte first (R115, R116). -/
  | decodeInt16 (hi lo : Byte)
  /-- `OP` 4 (R131). -/
  | angleToInt (angleDegrees : Rat)
  /-- `OP` 5 (R132). -/
  | coordToInt (coordMm : Rat)
  /-- `OP` 6 (R133). -/
  | intToAngle (raw : Int)
  /-- `OP` 7 (R134). -/
  | intToCoord (raw : Int)
  /-- `OP` 8 (R151). -/
  | flatten (items : Nested)
  /-- `OP` 9 (R153). -/
  | buildCommandPayload (args : List Arg)
  /-- `OP` 10 (R170). -/
  | readFrame
  /-- `OP` 11 (R200). -/
  | decode (expected : Byte)
  /-- `OP` 12 (R212). -/
  | unwrapSingle
  deriving DecidableEq, Repr

/-- What stands on the operand port of a request (R95, R116, R150). -/
inductive Operand where
  | none
  | int (v : Int)
  | bytes (bs : List Byte)
  | phys (q : Rat)
  | tokens (ts : List Token)
  deriving DecidableEq, Repr

/-- A request of the caller: the 4-bit operation code and the operand (R95). -/
structure Request where
  op : BitVec 4
  operand : Operand
  deriving DecidableEq, Repr

/-- The three things the block decodes: the bytes of a header read (R83), the dispatch key of a frame in wire order
(R85), and a request of the caller (R95). -/
inductive Code where
  | header (h : List Byte)
  | key (k : List Byte)
  | request (r : Request)
  deriving DecidableEq, Repr

/-- Why a code is no instruction. -/
inductive Reject where
  /-- `OP` 13 to 15 select nothing (R95, 93 U15). -/
  | reservedOp (op : BitVec 4)
  /-- The operand does not fit the operation's port: another kind, or a byte sequence of another length (R116, 93 U1). -/
  | operandPort (op : BitVec 4)
  /-- The tokens of a nested sequence are not properly bracketed (R150). -/
  | tokenBrackets
  /-- An argument list of `buildCommandPayload` that nests deeper or holds a non-integer in an inner list (R154, 93 U9). -/
  | payloadShape
  /-- A dispatch key that lacks a byte (no frame has such a key: R60, R85). -/
  | keyLength
  deriving DecidableEq, Repr

end Sys2Proof
end

