-- ==== Sys2Proof/WellFormed.lean ====
section
/-! DEFINITION. Which terms of `Instr` stand for an encoding, under the constants of the wire protocol (30_encoding.md R83,
R85). Rows whose operands admit every value are always well formed. -/

namespace Sys2Proof

/-- `bodyLength`, over the integers (R86). -/
def bodyLength (k : Constants) (len : Byte) : Int := len.toNat - k.lenOverhead

/-- `HDR.DESYNC` holds what a header read returned: at most three bytes, and three only when neither marker stands first
(R83). -/
def WellFormed.desync (k : Constants) : List Byte → Bool
  | [] => true
  | [_] => true
  | [_, _] => true
  | [a, b, _] => !(a == k.hdrChat && b == k.hdrChat) && !(a == k.hdrReal && b == k.hdrReal)
  | _ => false

/-- `DEC.SHORT` has a body length of 0 or less, and a command byte unless the declared length is 0 (R85, R86). -/
def WellFormed.short (k : Constants) (len : Byte) (cmd : Option Byte) : Bool :=
  decide (bodyLength k len ≤ 0) && (cmd.isNone == (len == 0))

/-- `DEC.OTHER` has a declared length other than 0 and a body length that no other row takes (R85). -/
def WellFormed.other (k : Constants) (len : Byte) : Bool :=
  len != 0 && decide (0 < bodyLength k len) && bodyLength k len != k.blListA && bodyLength k len != k.blListB &&
    bodyLength k len != k.blPair && bodyLength k len != 1

/-- The well-formed instructions. -/
def WellFormed (k : Constants) : Instr → Bool
  | .hdrDesync h => WellFormed.desync k h
  | .decS16 cmd => cmd != k.cmdIsServoEnable
  | .decShort len cmd => WellFormed.short k len cmd
  | .decOther len _ => WellFormed.other k len
  | .hdrChatter _ | .hdrFrame _ | .decList6 _ | .decList4 _ | .decS8Sec | .decS8 _
  | .encodeInt8 _ | .encodeInt16 _ | .decodeInt8 _ | .decodeInt16 _ _
  | .angleToInt _ | .coordToInt _ | .intToAngle _ | .intToCoord _
  | .flatten _ | .buildCommandPayload _ | .readFrame | .decode _ | .unwrapSingle => true

end Sys2Proof
end

