-- ==== Sys2Proof/Decode.lean ====
section
/-! DEFINITION. The decoder, total on header bytes, dispatch keys and requests and rejecting by name, and the encoder,
both written from the encoding tables of 30_encoding.md (R83, R85, R95) and the token form of 42_codec_payload.md R150. -/

namespace Sys2Proof

/-! ### Header words (R83) -/

/-- The three classes of a header word (R83). -/
inductive HeaderClass where
  | chatter
  | frame
  | desync
  deriving DecidableEq, Repr

/-- The class of a header from its first two bytes; the third never matters, and the chatter marker is compared first (R83,
R173). -/
def classify (k : Constants) (h0 h1 : Byte) : HeaderClass :=
  if h0 = k.hdrChat ∧ h1 = k.hdrChat then .chatter
  else if h0 = k.hdrReal ∧ h1 = k.hdrReal then .frame
  else .desync

/-- What a header read of these bytes selects. Fewer than three bytes are a desynchronisation, tested first (R172). -/
def decodeHeader (k : Constants) : List Byte → Instr
  | h0 :: h1 :: h2 :: _ =>
    match classify k h0 h1 with
    | .chatter => .hdrChatter h2
    | .frame => .hdrFrame h2
    | .desync => .hdrDesync [h0, h1, h2]
  | short => .hdrDesync short

/-! ### Dispatch keys (R85) -/

/-- The seven decode rules (R85). -/
inductive DecodeRule where
  | list6
  | list4
  | s8Sec
  | s16
  | s8
  | short
  | other
  deriving DecidableEq, Repr

/-- The explicit mapping from command code and body length to the decode rule, in the order of the Decoder's steps 2 and
3 (44_decoder.md R203, R204, R211). -/
def selectRule (k : Constants) (len : Byte) (cmd : Option Byte) : DecodeRule :=
  if bodyLength k len ≤ 0 then .short
  else if bodyLength k len = k.blListA then .list6
  else if bodyLength k len = k.blListB then .list4
  else if bodyLength k len = k.blPair then
    if cmd = some k.cmdIsServoEnable then .s8Sec else .s16
  else if bodyLength k len = 1 then .s8
  else .other

/-- The row of a key as an instruction. -/
def ruleInstr (len cmd : Byte) : DecodeRule → Instr
  | .list6 => .decList6 cmd
  | .list4 => .decList4 cmd
  | .s8Sec => .decS8Sec
  | .s16 => .decS16 cmd
  | .s8 => .decS8 cmd
  | .short => .decShort len (some cmd)
  | .other => .decOther len cmd

/-- The decoder of dispatch keys, in wire order. A frame of declared length 0 has no command byte, and the command half
of its key is not read (R85). -/
def decodeKey (k : Constants) : List Byte → Except Reject Instr
  | [] => .error .keyLength
  | len :: rest =>
    if len = 0 then .ok (.decShort len none)
    else
      match rest with
      | [] => .error .keyLength
      | cmd :: _ => .ok (ruleInstr len cmd (selectRule k len (some cmd)))

/-- A row of the dispatch table as printed: the rule and its match and mask over `{len, cmd}` (R85). -/
structure KeyRow where
  rule : DecodeRule
  value : BitVec 16
  mask : BitVec 16
  deriving DecidableEq, Repr

/-- The dispatch table as R85 prints it, in its order: its match and mask columns stand for the printed constants alone. The
decoder reads the constants instead; `Obligations.KeyMasksAgreeWithBodyLength` says that the two agree. -/
def printedKeyRows : List KeyRow :=
  [ ⟨.list6, 0x0E00, 0xFF00⟩, ⟨.list4, 0x0A00, 0xFF00⟩, ⟨.s8Sec, 0x0450, 0xFFFF⟩, ⟨.s16, 0x0400, 0xFF00⟩,
    ⟨.s8, 0x0300, 0xFF00⟩, ⟨.short, 0x0000, 0xFC00⟩, ⟨.other, 0x0000, 0x0000⟩ ]

/-- The first row that matches the key selects the rule; the last row matches every key (R85). -/
def printedKeyRule (key : BitVec 16) : DecodeRule :=
  match printedKeyRows.find? fun r => key &&& r.mask == r.value with
  | some r => r.rule
  | none => .other

/-! ### Token streams (R150) -/

/-- One token, read from the last to the first, over the stack of the sequences still open to its left: a scalar goes to
the front of the innermost, `CLOSE` starts a new one, `OPEN` puts the innermost in front of the one around it. -/
def tokenStep : Token → Option (List Nested) → Option (List Nested)
  | .scalar v, some (top :: stack) => some (.scalar v top :: stack)
  | .closeSeq, some (top :: stack) => some (.nil :: top :: stack)
  | .openSeq, some (inner :: top :: stack) => some (.seq inner top :: stack)
  | _, _ => none

/-- The nested sequence that a properly bracketed token stream spells. DESIGN CHOICE, unsafe: the operand's own outermost
`OPEN` and `CLOSE` are not in the stream, which lists the top-level items; so `OPEN 1 CLOSE` spells `[[1]]` and `1` spells
`[1]` (log 32). -/
def parseTokens (ts : List Token) : Option Nested :=
  match ts.foldr tokenStep (some [.nil]) with
  | some [n] => some n
  | _ => none

/-- The tokens of a nested sequence: those of its items, without a pair of brackets around the whole (DESIGN CHOICE: log
32). -/
def tokensOf : Nested → List Token
  | .nil => []
  | .scalar v rest => .scalar v :: tokensOf rest
  | .seq inner rest => .openSeq :: (tokensOf inner ++ .closeSeq :: tokensOf rest)

/-- The integers of a flat sequence of integers; another sequence has none (R154). -/
def flatIntegers : Nested → Option (List Int)
  | .nil => some []
  | .scalar v rest => if v.den = 1 then (flatIntegers rest).map (v.num :: ·) else none
  | .seq _ _ => none

/-- The argument list of `buildCommandPayload`; a shape that R154 does not admit has none. -/
def argsOf : Nested → Option (List Arg)
  | .nil => some []
  | .scalar v rest => (argsOf rest).map (.scalar v :: ·)
  | .seq inner rest => (flatIntegers inner).bind fun vs => (argsOf rest).map (.numbers vs :: ·)

/-- A flat sequence of numbers as a nested sequence. -/
def nestedOfList : List Rat → Nested
  | [] => .nil
  | v :: vs => .scalar v (nestedOfList vs)

/-- An argument list as a nested sequence. -/
def nestedOfArgs : List Arg → Nested
  | [] => .nil
  | .scalar v :: rest => .scalar v (nestedOfArgs rest)
  | .numbers vs :: rest => .seq (nestedOfList (vs.map fun v : Int => (v : Rat))) (nestedOfArgs rest)

/-! ### Requests (R95) -/

/-- The operations (R95). -/
inductive Operation where
  | encodeInt8
  | encodeInt16
  | decodeInt8
  | decodeInt16
  | angleToInt
  | coordToInt
  | intToAngle
  | intToCoord
  | flatten
  | buildCommandPayload
  | readFrame
  | decode
  | unwrapSingle
  deriving DecidableEq, Repr

/-- The operations in the order of their codes, 0 to 12 (R95). -/
def operations : List Operation :=
  [ .encodeInt8, .encodeInt16, .decodeInt8, .decodeInt16, .angleToInt, .coordToInt, .intToAngle, .intToCoord,
    .flatten, .buildCommandPayload, .readFrame, .decode, .unwrapSingle ]

/-- A single integer on the operand port. -/
def intPort : Operand → Option Int
  | .int v => some v
  | _ => none

/-- A single physical value on the operand port. -/
def physPort : Operand → Option Rat
  | .phys q => some q
  | _ => none

/-- Bytes on the operand port. -/
def bytesPort : Operand → Option (List Byte)
  | .bytes bs => some bs
  | _ => none

/-- The nested sequence on the operand port. -/
def tokensPort (op : BitVec 4) : Operand → Except Reject Nested
  | .tokens ts =>
    match parseTokens ts with
    | some n => .ok n
    | none => .error .tokenBrackets
  | _ => .error (.operandPort op)

/-- An operand that fits its port makes an instruction; another is refused (R116). -/
def fit {α : Type} (op : BitVec 4) (port : Option α) (make : α → Instr) : Except Reject Instr :=
  match port with
  | some a => .ok (make a)
  | none => .error (.operandPort op)

/-- An operation that takes one byte. -/
def fitByte (op : BitVec 4) (o : Operand) (make : Byte → Instr) : Except Reject Instr :=
  match bytesPort o with
  | some [b] => .ok (make b)
  | _ => .error (.operandPort op)

/-- An operation that takes two bytes. -/
def fitPair (op : BitVec 4) (o : Operand) (make : Byte → Byte → Instr) : Except Reject Instr :=
  match bytesPort o with
  | some [b0, b1] => .ok (make b0 b1)
  | _ => .error (.operandPort op)

/-- An operation that takes a nested sequence, of a shape that `read` admits. -/
def fitTokens {α : Type} (op : BitVec 4) (o : Operand) (read : Nested → Option α) (make : α → Instr) :
    Except Reject Instr :=
  match tokensPort op o with
  | .error why => .error why
  | .ok n =>
    match read n with
    | some a => .ok (make a)
    | none => .error .payloadShape

/-- An operation without an operand. -/
def fitNone (op : BitVec 4) (o : Operand) (i : Instr) : Except Reject Instr :=
  if o = .none then .ok i else .error (.operandPort op)

/-- The decoder of requests: the operation code selects the operation, the operand must fit its port (R95, R116). -/
def decodeRequest (r : Request) : Except Reject Instr :=
  match operations[r.op.toNat]? with
  | none => .error (.reservedOp r.op)
  | some .encodeInt8 => fit r.op (intPort r.operand) .encodeInt8
  | some .encodeInt16 => fit r.op (intPort r.operand) .encodeInt16
  | some .decodeInt8 => fitByte r.op r.operand .decodeInt8
  | some .decodeInt16 => fitPair r.op r.operand .decodeInt16
  | some .angleToInt => fit r.op (physPort r.operand) .angleToInt
  | some .coordToInt => fit r.op (physPort r.operand) .coordToInt
  | some .intToAngle => fit r.op (intPort r.operand) .intToAngle
  | some .intToCoord => fit r.op (intPort r.operand) .intToCoord
  | some .flatten => fitTokens r.op r.operand some .flatten
  | some .buildCommandPayload => fitTokens r.op r.operand argsOf .buildCommandPayload
  | some .readFrame => fitNone r.op r.operand .readFrame
  | some .decode => fitByte r.op r.operand .decode
  | some .unwrapSingle => fitNone r.op r.operand .unwrapSingle

/-- The decoder of every code. -/
def decode (k : Constants) : Code → Except Reject Instr
  | .header h => .ok (decodeHeader k h)
  | .key bs => decodeKey k bs
  | .request r => decodeRequest r

/-! ### The encoder -/

/-- The declared length of a frame whose payload has this length (R80). -/
def declaredLength (k : Constants) (bl : Int) : Byte := BitVec.ofInt 8 (bl + k.lenOverhead)

/-- The code of a well-formed instruction (R83, R85, R95, R150). -/
def encode (k : Constants) : Instr → Code
  | .hdrChatter instr => .header [k.hdrChat, k.hdrChat, instr]
  | .hdrFrame len => .header [k.hdrReal, k.hdrReal, len]
  | .hdrDesync h => .header h
  | .decList6 cmd => .key [declaredLength k k.blListA, cmd]
  | .decList4 cmd => .key [declaredLength k k.blListB, cmd]
  | .decS8Sec => .key [declaredLength k k.blPair, k.cmdIsServoEnable]
  | .decS16 cmd => .key [declaredLength k k.blPair, cmd]
  | .decS8 cmd => .key [declaredLength k 1, cmd]
  | .decShort len cmd => .key (len :: cmd.toList)
  | .decOther len cmd => .key [len, cmd]
  | .encodeInt8 v => .request ⟨0, .int v⟩
  | .encodeInt16 v => .request ⟨1, .int v⟩
  | .decodeInt8 b => .request ⟨2, .bytes [b]⟩
  | .decodeInt16 hi lo => .request ⟨3, .bytes [hi, lo]⟩
  | .angleToInt q => .request ⟨4, .phys q⟩
  | .coordToInt q => .request ⟨5, .phys q⟩
  | .intToAngle v => .request ⟨6, .int v⟩
  | .intToCoord v => .request ⟨7, .int v⟩
  | .flatten n => .request ⟨8, .tokens (tokensOf n)⟩
  | .buildCommandPayload args => .request ⟨9, .tokens (tokensOf (nestedOfArgs args))⟩
  | .readFrame => .request ⟨10, .none⟩
  | .decode expected => .request ⟨11, .bytes [expected]⟩
  | .unwrapSingle => .request ⟨12, .none⟩

/-! ### The opcode table's numbering of the same words -/

/-- Byte `i` of a word, byte 0 the least significant. -/
def wordByte (w i : Nat) : Byte := BitVec.ofNat 8 (w / 256 ^ i)

/-- A request with this operation code and an operand of zeros: the table gives the operands of an `OP` row no bits
(log 26). -/
def zeroRequest (op : BitVec 4) : Request :=
  let operand : Operand :=
    match op.toNat with
    | 0 | 1 | 6 | 7 => .int 0
    | 2 | 11 => .bytes [0]
    | 3 => .bytes [0, 0]
    | 4 | 5 => .phys 0
    | 8 | 9 => .tokens []
    | _ => .none
  ⟨op, operand⟩

/-- The code of a table word: 24 bits `{h0, h1, h2}` (R83), 16 bits `{len, cmd}` (R85), 4 bits of `OP` in one byte
(R95). A wider word, or a set bit above the row's, is no code. -/
def tableCode (nbits w : Nat) : Option Code :=
  if nbits ≤ 8 then
    if w < 16 then some (.request (zeroRequest (BitVec.ofNat 4 w))) else none
  else if nbits ≤ 16 then
    if w < 256 ^ 2 then some (.key [wordByte w 1, wordByte w 0]) else none
  else if nbits ≤ 24 then
    if w < 256 ^ 3 then some (.header [wordByte w 2, wordByte w 1, wordByte w 0]) else none
  else none

/-- What the decoder reads from a table word, under the printed constants (log 26). -/
def decodeTableWord (nbits w : Nat) : Option Instr :=
  match tableCode nbits w with
  | some c => (decode .printed c).toOption
  | none => none

end Sys2Proof
end

