-- ==== Sys2Proof/Machine/State.lean ====
section
/-! DEFINITION. The state: the block's registers (10_state.md R20), the transport that a model carries outside them
(20_memory.md R56), and the caller's side of the interface; the reasons a step can stop; the state after reset (R31). -/

namespace Sys2Proof.Machine

/-- `ST`, the FrameReader's sequencing state (R21). -/
inductive SeqState where
  | seekingFrame
  | readingChatter
  | frameFound
  | readError
  deriving DecidableEq, Repr

/-- `ERR`, how the last operation that writes it ended (R23, 60_exceptions.md R230). -/
inductive ErrKind where
  | none
  | rangeError
  | incompleteFrame
  | readError
  | commandMismatch
  | shortLength
  | noFrame
  deriving DecidableEq, Repr

/-- `RKIND`, the shape of the decode result (R24). -/
inductive ResultKind where
  | empty
  | listS16
  | s16
  | s8
  deriving DecidableEq, Repr

/-- `ERRBYTES[0..2]` (R23). -/
structure ErrBytes where
  b0 : Byte
  b1 : Byte
  b2 : Byte
  deriving DecidableEq, Repr

/-- `RES[0..5]`, written `x[0]` to `x[5]` in pseudocode (R24). -/
structure Results where
  x0 : Word16
  x1 : Word16
  x2 : Word16
  x3 : Word16
  x4 : Word16
  x5 : Word16
  deriving DecidableEq, Repr

/-- The bytes of the frame buffer that have a value, by offset: offsets strictly rising; an offset that is not listed
holds no value (R22; log 4). -/
abbrev Memory := List Host.Cell

/-- What an operation hands back to the caller (30_encoding.md R95). DESIGN CHOICE, safe: the block has no register for
it (R231, R236), so it stands on the caller's side of the interface (log 7). -/
inductive Reply where
  /-- Nothing yet: no operation has ended, or a read cycle is in progress. -/
  | nothing
  /-- The bytes of an encode operation, in wire order (R111, R112). -/
  | bytes (bs : List Byte)
  /-- An integer (R114, R115, R131, R132, R212). -/
  | integer (v : Int)
  /-- A physical value (R133, R134). -/
  | physical (q : Rat)
  /-- A flat sequence (R151, R153). -/
  | sequence (xs : List Rat)
  /-- `RangeError` with the offending value; no result (R231). -/
  | rangeError (v : Int)
  /-- The outcome stands in the block's registers: `READFRAME` and `DECODE` have ended (R170, R200). -/
  | registers
  deriving DecidableEq, Repr

/-- The transport (R56). -/
structure Transport where
  /-- The bytes of `RX` not yet read, in arrival order (20_memory.md R50, R51). -/
  rx : List Byte
  /-- The bytes the device repeats for ever after `rx`; with `[]` the stream ends after `rx` (43_framereader.md R180;
  DESIGN CHOICE, log 3). -/
  again : List Byte
  /-- How many bytes at most the transport hands back at each coming request; past the end of the list a request gets
  what it asks for, or what remains (R52; DESIGN CHOICE, log 2). -/
  answers : List Nat
  /-- The stream cursor: how many bytes of `RX` have been consumed (10_state.md R28). -/
  cursor : Nat
  /-- The outbound bytes accepted and not yet drained; no step touches them (R50, R54; log 23). -/
  tx : List Byte
  deriving DecidableEq, Repr

/-- The caller (00_scope.md R8). -/
structure Caller where
  /-- The requests the caller makes, in order (R8, R65; DESIGN CHOICE, log 1). -/
  requests : List Request
  /-- A `READFRAME` has been requested and has not ended (R170; DESIGN CHOICE, log 8). -/
  waiting : Bool
  /-- What the last operation handed back (log 7). -/
  reply : Reply
  deriving DecidableEq, Repr

/-- The state of the machine. -/
structure State where
  /-- What is fixed at construction, `CFG.PRE_READ` among it (R26). -/
  cfg : Construction
  /-- `ST`, 2 bits (R21). -/
  st : SeqState
  /-- `FB[0..258)`, 8 bits each (R22). -/
  fb : Memory
  /-- `FLEN`, 9 bits (R22). -/
  flen : BitVec 9
  /-- `FVALID`, 1 bit (R22). -/
  fvalid : Bool
  /-- `ERR`, 3 bits (R23). -/
  err : ErrKind
  /-- `ERRBYTES[0..2]`, 8 bits each (R23). -/
  errBytes : ErrBytes
  /-- `ERRN`, 2 bits (R23). -/
  errN : BitVec 2
  /-- `RES[0..5]`, 16 bits each, signed (R24). -/
  res : Results
  /-- `RCNT`, 3 bits (R24). -/
  rcnt : BitVec 3
  /-- `RKIND`, 2 bits (R24). -/
  rkind : ResultKind
  /-- `SKIPPED` (R25). -/
  skipped : BitVec Config.skipW
  /-- The transport, outside the block's own state (R56). -/
  transport : Transport
  /-- The caller, outside the block's own state (R8). -/
  caller : Caller
  deriving DecidableEq, Repr

/-- The reasons the machine stops with a fault. The block itself has no traps: its errors are values of `ERR`
(60_exceptions.md R236). -/
inductive Fault where
  /-- An access to a frame-buffer offset of 258 or more, which does not exist (20_memory.md R50). Raised by the
  frame-buffer accesses of Machine/Ops.lean; no instruction makes one. Safe (log 27). -/
  | frameBufferOffset (offset : Nat)
  deriving DecidableEq, Repr

/-- The reasons a step has no meaning. -/
inductive Refusal where
  /-- Raised only by an arm of `exec` whose instruction has no meaning yet. Safe. -/
  | notModelled (mnemonic : String)
  /-- Raised by the fetch of a request that is no instruction: `OP` 13 to 15, an operand that does not fit its port,
  unbalanced tokens, an argument list that is not admitted (R95, R116, R150, R154). Safe (log 20, 21, 22). -/
  | notAnInstruction (why : Reject)
  /-- A read of a byte of `FB`, `ERRBYTES` or a register of `RES` that holds no value (10_state.md R22 to R24). Raised by
  the reads of Machine/Ops.lean; among the instructions by `DECODE` and the decode rules, under the printed constants in
  states that no run reaches. Safe (log 4, 5, 6, 11). -/
  | noValue
  /-- A list rule of more elements than there are result registers (10_state.md R24). Raised by `DEC.LIST6`, `DEC.LIST4` and
  the `DECODE` that runs them, only under constants other than the printed ones. Safe (log 11). -/
  | resultRegisters
  /-- `CFG.PRE_READ` other than `None` (10_state.md R26, 93 U4). Raised by `READFRAME` and the FrameReader's steps. Safe
  (log 14). -/
  | preReadNotAdmitted
  deriving DecidableEq, Repr

/-- The block as it is constructed over a transport (R31, 70_reset_and_hazards.md R260, R262): every register at its reset
value, the transport as it stands, no operation in progress; the caller's coming requests are the caller's. `RES` and
`ERRBYTES` hold no value there; the zeros are the model's (DESIGN CHOICE, unsafe: log 5, log 6). -/
def State.construct (cfg : Construction) (transport : Transport) (requests : List Request) : State where
  cfg := cfg
  st := .seekingFrame
  fb := []
  flen := 0
  fvalid := false
  err := .none
  errBytes := ⟨0, 0, 0⟩
  errN := 0
  res := ⟨0, 0, 0, 0, 0, 0⟩
  rcnt := 0
  rkind := .empty
  skipped := 0
  transport := transport
  caller := { requests := requests, waiting := false, reply := .nothing }

/-- A transport on which no byte has arrived and none waits to leave. -/
def Transport.empty : Transport := { rx := [], again := [], answers := [], cursor := 0, tx := [] }

/-- The machine right after reset, with the values taken for the parameters, over an empty transport and with no request
(DESIGN CHOICE: log 28; over any other transport it is `State.construct`). -/
def State.reset : State := State.construct {} .empty []

end Sys2Proof.Machine
end

