-- ==== Sys2Proof/Machine/Ops.lean ====
section
/-! DEFINITION. The shared operations over the frame buffer, the registers and the transport: `MemRead` and `MemWrite`
(00_scope.md R13), reads of registers that may hold no value (10_state.md R22 to R24), `RxRead` (20_memory.md R51),
raising an error (60_exceptions.md R236), and the end of an operation. There is no operation that returns from an error,
because there is no handler to return from (60_exceptions.md R237). -/

namespace Sys2Proof.Machine

/-- The outcome of an instruction or of a read inside one. -/
abbrev Result (α : Type) := Host.Outcome α Fault Refusal

/-- Goes on with a value that has been read, or stops where the read stopped. -/
def andThen {α β : Type} (o : Result α) (f : α → Result β) : Result β :=
  match o with
  | .next a => f a
  | .fault r => .fault r
  | .refused r => .refused r

/-! ### The frame buffer -/

/-- The byte at an offset, if it has a value. -/
def Memory.read : Memory → Nat → Option Byte
  | [], _ => none
  | (a', b) :: m, a => if a = a' then some b else Memory.read m a

/-- Stores one byte, keeping the offsets strictly rising. -/
def Memory.write : Memory → Nat → Byte → Memory
  | [], a, b => [(a, b)]
  | (a', b') :: m, a, b =>
    if a < a' then (a, b) :: (a', b') :: m
    else if a = a' then (a, b) :: m
    else (a', b') :: Memory.write m a b

/-- Stores bytes at consecutive offsets. -/
def Memory.writeBytes : Memory → Nat → List Byte → Memory
  | m, _, [] => m
  | m, a, b :: bs => Memory.writeBytes (Memory.write m a b) (a + 1) bs

/-- The canonical form: every listed offset is at least `lo`, below `FBMAX`, and the offsets rise strictly. -/
def Memory.wfFrom : Nat → Memory → Bool
  | _, [] => true
  | lo, (a, _) :: m => decide (lo ≤ a) && decide (a < Config.fbMax) && Memory.wfFrom (a + 1) m

/-- The canonical form of the frame buffer's contents. No entry equals what an unlisted offset reads as, which is no
value at all (R22). -/
def Memory.wf (m : Memory) : Bool := Memory.wfFrom 0 m

/-- `FB[a]`. A byte at an offset `>= FLEN`, or any byte while `FVALID = 0`, holds no value and its read is refused (R22);
an offset of 258 or more does not exist (R50). -/
def fbRead (a : Nat) (s : State) : Result Byte :=
  if Config.fbMax ≤ a then .fault (.frameBufferOffset a)
  else if s.fvalid = true ∧ a < s.flen.toNat then
    match Memory.read s.fb a with
    | some b => .next b
    | none => .refused .noValue
  else .refused .noValue

/-- `MemRead(a, n)`, the bytes `FB[a..a+n)` (R13). -/
def memRead (a : Nat) : Nat → State → Result (List Byte)
  | 0, _ => .next []
  | n + 1, s => andThen (fbRead a s) fun b => andThen (memRead (a + 1) n s) fun bs => .next (b :: bs)

/-- `MemWrite(a, |bs|, bs)` (R13). -/
def memWrite (a : Nat) (bs : List Byte) (s : State) : Result State :=
  if Config.fbMax < a + bs.length then .fault (.frameBufferOffset (max a Config.fbMax))
  else .next { s with fb := Memory.writeBytes s.fb a bs }

/-- Drops the frame: `FVALID <- 0`, `FLEN <- 0`, and no byte of `FB` holds a value (R22, 43_framereader.md R171, R177,
R178). -/
def dropFrame (s : State) : State := { s with fb := [], flen := 0, fvalid := false }

/-! ### Registers that may hold no value -/

/-- `x[i]` as stored (R24). -/
def Results.get (r : Results) : Nat → Option Word16
  | 0 => some r.x0
  | 1 => some r.x1
  | 2 => some r.x2
  | 3 => some r.x3
  | 4 => some r.x4
  | 5 => some r.x5
  | _ => none

/-- `x[i] <- v`; there is no register beyond `x[5]`. -/
def Results.set (r : Results) : Nat → Word16 → Results
  | 0, v => { r with x0 := v }
  | 1, v => { r with x1 := v }
  | 2, v => { r with x2 := v }
  | 3, v => { r with x3 := v }
  | 4, v => { r with x4 := v }
  | 5, v => { r with x5 := v }
  | _, _ => r

/-- Stores integers in consecutive registers, each in 16 bits (R24). -/
def Results.write : Results → Nat → List Int → Results
  | r, _, [] => r
  | r, i, v :: vs => Results.write (r.set i (BitVec.ofInt 16 v)) (i + 1) vs

/-- A read of `RES[i]`; a register with `i >= RCNT` holds no value and its read is refused (R24). -/
def resRead (i : Nat) (s : State) : Result Word16 :=
  if i < s.rcnt.toNat then
    match s.res.get i with
    | some v => .next v
    | none => .refused .noValue
  else .refused .noValue

/-- `ERRBYTES[i]` as stored (R23). -/
def ErrBytes.get (e : ErrBytes) : Nat → Option Byte
  | 0 => some e.b0
  | 1 => some e.b1
  | 2 => some e.b2
  | _ => none

/-- `ERRBYTES[0..|h|) <- h`; the bytes at other indexes stay as they are (43_framereader.md R177). -/
def ErrBytes.store (e : ErrBytes) (h : List Byte) : ErrBytes :=
  { b0 := h.getD 0 e.b0, b1 := h.getD 1 e.b1, b2 := h.getD 2 e.b2 }

/-- A read of `ERRBYTES[i]`; a byte at an index `>= ERRN` holds no value (R23). -/
def errByteRead (i : Nat) (s : State) : Result Byte :=
  if i < s.errN.toNat then
    match s.errBytes.get i with
    | some b => .next b
    | none => .refused .noValue
  else .refused .noValue

/-! ### The inbound stream -/

/-- The bytes from which a request of `n` is answered: what is listed, and, when that is too little and the device goes on
for ever, enough of what it repeats (log 3). -/
def rxAvailable (n : Nat) (t : Transport) : List Byte :=
  if t.rx.length < n then t.rx ++ (List.replicate n t.again).flatten else t.rx

/-- How many bytes at most the transport hands back (20_memory.md R51, R52; log 2). -/
def rxLimit (n : Nat) (t : Transport) : Nat := min n (t.answers.headD n)

/-- The bytes that `RxRead(n)` returns (R51). -/
def rxTake (n : Nat) (t : Transport) : List Byte := (rxAvailable n t).take (rxLimit n t)

/-- The transport after `RxRead(n)`: the bytes returned are consumed, also on a short read (R51, R55). -/
def rxAdvance (n : Nat) (t : Transport) : Transport :=
  { t with
    rx := (rxAvailable n t).drop (rxLimit n t)
    answers := t.answers.tail
    cursor := t.cursor + (rxTake n t).length }

/-- `RxRead(n)`, for `n >= 1` (R51). -/
def rxRead (n : Nat) (s : State) : List Byte × State :=
  (rxTake n s.transport, { s with transport := rxAdvance n s.transport })

/-- A read of as many bytes as a length byte says; for 0 no request is issued and the result is `[]` (R53). -/
def rxReadCounted (n : Nat) (s : State) : List Byte × State :=
  if n = 0 then ([], s) else rxRead n s

/-! ### The end of an operation -/

/-- Hands a reply to the caller (30_encoding.md R95). -/
def setReply (r : Reply) (s : State) : State := { s with caller := { s.caller with reply := r } }

/-- `ERR <- None ; ERRN <- 0` (R110, R171, R176). -/
def clearError (s : State) : State := { s with err := .none, errN := 0 }

/-- `raise <Kind>(info)`: `ERR <- <Kind>`, `ERRN <- 0`, and the caller is told. The state changes that a rule lists beside
the `raise` are made by the operations below (60_exceptions.md R236). Nothing is saved and no control goes anywhere inside the
block. -/
def raise (k : ErrKind) (r : Reply) (s : State) : State := setReply r { s with err := k, errN := 0 }

/-- `ST <- q` (43_framereader.md R174, R175). -/
def setSeq (q : SeqState) (s : State) : State := { s with st := q }

/-- The read cycle ends in a terminal state and the caller waits no longer (43_framereader.md R170, R184). -/
def endCycle (st : SeqState) (s : State) : State :=
  { s with st := st, caller := { s.caller with waiting := false, reply := .registers } }

/-- `raise IncompleteFrame()` with the changes of R178. -/
def failIncomplete (s : State) : State :=
  endCycle .readError (dropFrame (raise .incompleteFrame .registers s))

/-- `raise ReadError(h)` with the changes of R177. -/
def failDesync (h : List Byte) (s : State) : State :=
  endCycle .readError
    (dropFrame { raise .readError .registers s with errBytes := s.errBytes.store h, errN := BitVec.ofNat 2 h.length })

end Sys2Proof.Machine
end

