-- ==== Sys2Proof/Machine/Operands.lean ====
section
/-! DEFINITION. What the operations compute from their operands, written over the mathematical integers and rationals as
the spec does (00_scope.md R11): the integer codec (40_codec_integer.md), the unit scale (41_codec_scale.md), payload
assembly (42_codec_payload.md), and the payload bytes of the frame buffer (20_memory.md R60 to R62). -/

namespace Sys2Proof.Machine

/-! ### The integer codec -/

/-- The byte with this value, for a value of 0 to 255. -/
def byteOf (n : Int) : Byte := BitVec.ofNat 8 n.toNat

/-- `sext_8` (R11, R114). -/
def sext8 (b : Byte) : Int := if b.toNat < 128 then b.toNat else b.toNat - 256

/-- `sext_16({hi, lo})` (R11, R87, R115). -/
def sext16 (hi lo : Byte) : Int :=
  if 256 * hi.toNat + lo.toNat < 32768 then 256 * hi.toNat + lo.toNat else 256 * hi.toNat + lo.toNat - 65536

/-- The byte of an 8-bit value, or the value itself where it is out of range; the check comes before any truncation (R110,
R111). -/
def int8Bytes (v : Int) : Except Int (List Byte) :=
  if v < -128 ∨ 127 < v then .error v else .ok [byteOf (v % 256)]

/-- The two bytes of a 16-bit value, high byte first, or the value itself where it is out of range (R112). -/
def int16Bytes (v : Int) : Except Int (List Byte) :=
  if v < -32768 ∨ 32767 < v then .error v
  else .ok [byteOf (v % 65536 / 256), byteOf (v % 65536 % 256)]

/-! ### The unit scale -/

/-- Whether a value halfway between `f` and `f + 1` goes up (R135 `TIE_RULE`; log 12). -/
def tieGoesUp : TieRule → Int → Bool
  | .toEven, f => f % 2 != 0
  | .awayFromZero, f => decide (0 ≤ f)
  | .towardZero, f => decide (f < 0)
  | .up, _ => true
  | .down, _ => false

/-- `rnd(q)`, the integer nearest to `q` (R135). -/
def rnd (t : TieRule) (q : Rat) : Int :=
  let f := q.num / q.den
  let twice := 2 * (q.num % q.den)
  if twice < q.den then f
  else if (q.den : Int) < twice then f + 1
  else if tieGoesUp t f then f + 1
  else f

/-- `rnd_d(q, d)`, the rounding of `q` to `d` decimal places (R135). -/
def rndDigits (t : TieRule) (q : Rat) (d : Nat) : Rat := (rnd t (q * 10 ^ d) : Rat) / 10 ^ d

/-- `rnd(angleDegrees * ANGLE_SCALE)` (R131). -/
def angleUnits (c : Construction) (angleDegrees : Rat) : Int :=
  rnd c.tieRule (angleDegrees * c.constants.angleScale)

/-- `rnd(coordMm * COORD_SCALE)` (R132). -/
def coordUnits (c : Construction) (coordMm : Rat) : Int := rnd c.tieRule (coordMm * c.constants.coordScale)

/-- `rnd_d(raw / ANGLE_SCALE, 3)` (R133). -/
def unitsAngle (c : Construction) (raw : Int) : Rat := rndDigits c.tieRule ((raw : Rat) / c.constants.angleScale) 3

/-- `rnd_d(raw / COORD_SCALE, 2)` (R134). -/
def unitsCoord (c : Construction) (raw : Int) : Rat := rndDigits c.tieRule ((raw : Rat) / c.constants.coordScale) 2

/-! ### Payload assembly -/

/-- `flatten`, by recursion on the tree (R151). -/
def flattenSeq : Nested → List Rat
  | .nil => []
  | .scalar v rest => v :: flattenSeq rest
  | .seq inner rest => flattenSeq inner ++ flattenSeq rest

/-- The encoded bytes of an inner list, or its first element out of range (R153). -/
def encodeNumbers : List Int → Except Int (List Byte)
  | [] => .ok []
  | v :: vs =>
    match int16Bytes v with
    | .error e => .error e
    | .ok bs =>
      match encodeNumbers vs with
      | .error e => .error e
      | .ok rest => .ok (bs ++ rest)

/-- The argument list with the encoded bytes of each inner list in its place, or the first offender in order (R153). -/
def spliceArgs : List Arg → Except Int Nested
  | [] => .ok .nil
  | .scalar v :: rest =>
    match spliceArgs rest with
    | .error e => .error e
    | .ok out => .ok (.scalar v out)
  | .numbers vs :: rest =>
    match encodeNumbers vs with
    | .error e => .error e
    | .ok enc =>
      match spliceArgs rest with
      | .error e => .error e
      | .ok out => .ok (.seq (nestedOfList (enc.map fun b => (b.toNat : Rat))) out)

/-- The flat sequence of `buildCommandPayload`; an out-of-range element leaves no partial result (R153). -/
def payloadOf (args : List Arg) : Except Int (List Rat) :=
  match spliceArgs args with
  | .error e => .error e
  | .ok out => .ok (flattenSeq out)

/-! ### Payload bytes of the frame buffer -/

/-- The frame offset of payload byte `k` (20_memory.md R60). -/
def payloadOffset (k : Nat) : Nat := 4 + k

/-- `sext_8` of payload byte `k` (R62, 44_decoder.md R207, R208). -/
def payloadInt8 (k : Nat) (s : State) : Result Int :=
  andThen (fbRead (payloadOffset k) s) fun b => .next (sext8 b)

/-- `sext_16` of payload bytes `k` and `k + 1`, the first one high (R61, R62, R87). -/
def payloadInt16 (k : Nat) (s : State) : Result Int :=
  andThen (fbRead (payloadOffset k) s) fun hi =>
    andThen (fbRead (payloadOffset (k + 1)) s) fun lo => .next (sext16 hi lo)

/-- `n` lanes of two bytes from payload byte `k` on, in order (44_decoder.md R205). -/
def payloadLanes : Nat → Nat → State → Result (List Int)
  | 0, _, _ => .next []
  | n + 1, k, s =>
    andThen (payloadInt16 k s) fun v => andThen (payloadLanes n (k + 2) s) fun vs => .next (v :: vs)

end Sys2Proof.Machine
end

