-- ==== Sys2Proof/Machine/CodecInteger.lean ====
section
/-! DEFINITION. The integer codec: `encodeInt8`, `encodeInt16`, `decodeInt8`, `decodeInt16` (40_codec_integer.md). The
encode operations write `ERR` and `ERRN`, the decode operations write no register (R110). -/

namespace Sys2Proof.Machine

/-- The end of an operation that raises `RangeError` or hands back a value (R110, R113, 60_exceptions.md R231). -/
def endChecked {α : Type} (o : Except Int α) (reply : α → Reply) (s : State) : Result State :=
  match o with
  | .ok a => .next (setReply (reply a) (clearError s))
  | .error v => .next (raise .rangeError (.rangeError v) s)

/-- `encodeInt8(value)` (R111). -/
def execEncodeInt8 (value : Int) (s : State) : Result State := endChecked (int8Bytes value) .bytes s

/-- `encodeInt16(value)` (R112). -/
def execEncodeInt16 (value : Int) (s : State) : Result State := endChecked (int16Bytes value) .bytes s

/-- `decodeInt8(b)` (R114). -/
def execDecodeInt8 (b : Byte) (s : State) : Result State := .next (setReply (.integer (sext8 b)) s)

/-- `decodeInt16(hi lo)` (R115). -/
def execDecodeInt16 (hi lo : Byte) (s : State) : Result State := .next (setReply (.integer (sext16 hi lo)) s)

end Sys2Proof.Machine
end

