-- ==== Sys2Proof/Machine/CodecPayload.lean ====
section
/-! DEFINITION. Payload assembly: `flatten` and `buildCommandPayload` (42_codec_payload.md). -/

namespace Sys2Proof.Machine

/-- `flatten(items)`; it writes no register (R151). -/
def execFlatten (items : Nested) (s : State) : Result State := .next (setReply (.sequence (flattenSeq items)) s)

/-- `buildCommandPayload(args)` (R153). -/
def execBuildCommandPayload (args : List Arg) (s : State) : Result State :=
  endChecked (payloadOf args) .sequence s

end Sys2Proof.Machine
end

