-- ==== Sys2Proof/Machine/CodecScale.lean ====
section
/-! DEFINITION. The unit scale: `angleToInt`, `coordToInt`, `intToAngle`, `intToCoord` (41_codec_scale.md). They never
raise and write no register (R130). -/

namespace Sys2Proof.Machine

/-- `angleToInt(angleDegrees)` (R131). -/
def execAngleToInt (angleDegrees : Rat) (s : State) : Result State :=
  .next (setReply (.integer (angleUnits s.cfg angleDegrees)) s)

/-- `coordToInt(coordMm)` (R132). -/
def execCoordToInt (coordMm : Rat) (s : State) : Result State :=
  .next (setReply (.integer (coordUnits s.cfg coordMm)) s)

/-- `intToAngle(raw)` (R133). -/
def execIntToAngle (raw : Int) (s : State) : Result State :=
  .next (setReply (.physical (unitsAngle s.cfg raw)) s)

/-- `intToCoord(raw)` (R134). -/
def execIntToCoord (raw : Int) (s : State) : Result State :=
  .next (setReply (.physical (unitsCoord s.cfg raw)) s)

end Sys2Proof.Machine
end

