-- ==== Sys2Proof/Machine/Flags.lean ====
section
/-! DEFINITION. The status registers: the numeric codes of `ST`, `ERR` and `RKIND` (10_state.md R21, R23, R24), and the
status that the end of a decode and the chatter count leave (R25, R29). -/

namespace Sys2Proof.Machine

/-- The two-bit code of `ST` (R21). -/
def SeqState.code : SeqState → BitVec 2
  | .seekingFrame => 0
  | .readingChatter => 1
  | .frameFound => 2
  | .readError => 3

/-- The three-bit code of `ERR`; code 7 is unused (R23, 60_exceptions.md R230). -/
def ErrKind.code : ErrKind → BitVec 3
  | .none => 0
  | .rangeError => 1
  | .incompleteFrame => 2
  | .readError => 3
  | .commandMismatch => 4
  | .shortLength => 5
  | .noFrame => 6

/-- The two-bit code of `RKIND` (R24). -/
def ResultKind.code : ResultKind → BitVec 2
  | .empty => 0
  | .listS16 => 1
  | .s16 => 2
  | .s8 => 3

/-- An empty decode result with its reason, `FVALID <- 0` and `ERRN <- 0` (44_decoder.md R201 to R203, R210). -/
def emptyResult (k : ErrKind) (s : State) : State :=
  setReply .registers { s with rcnt := 0, rkind := .empty, err := k, errN := 0, fvalid := false }

/-- A decode result: `x[0], x[1], ... <- vs`, `RCNT`, `RKIND`, `ERR <- None`, `ERRN <- 0`, `FVALID <- 0` (R205 to R210). -/
def deliver (vs : List Int) (k : ResultKind) (s : State) : State :=
  setReply .registers
    { s with
      res := s.res.write 0 vs
      rcnt := BitVec.ofNat 3 vs.length
      rkind := k
      err := .none
      errN := 0
      fvalid := false }

/-- `SKIPPED <- (SKIPPED + n) mod 2^SKIPW` (R25). -/
def countSkipped (n : Nat) (s : State) : State := { s with skipped := s.skipped + BitVec.ofNat Config.skipW n }

end Sys2Proof.Machine
end

