-- ==== Sys2Proof/Machine/Decoder.lean ====
section
/-! DEFINITION. The Decoder (44_decoder.md): the seven decode rules, `DECODE`, which checks the frame and runs the rule its
dispatch key selects, and `unwrapSingle`. -/

namespace Sys2Proof.Machine

/-- The signed 16-bit values of a body of this length (R205). There are six result registers, so a list of more elements, which
the printed constants have none of, is refused (log 11). -/
def decodeLanes (bl : Int) (s : State) : Result State :=
  let n := (bl / 2).toNat
  if Config.resN < n then .refused .resultRegisters
  else andThen (payloadLanes n 0 s) fun vs => .next (deliver vs .listS16 s)

/-- One signed 8-bit value from payload byte `k`, held sign-extended (R207, R208, R209). -/
def decodeByte (k : Nat) (s : State) : Result State :=
  andThen (payloadInt8 k s) fun v => .next (deliver [v] .s8 s)

/-- `DEC.LIST6` (R205). -/
def execDecList6 (s : State) : Result State := decodeLanes s.cfg.constants.blListA s

/-- `DEC.LIST4` (R205). -/
def execDecList4 (s : State) : Result State := decodeLanes s.cfg.constants.blListB s

/-- `DEC.S8SEC`: the second payload byte; the first is reserved and ignored (R207). -/
def execDecS8Sec (s : State) : Result State := decodeByte 1 s

/-- `DEC.S16` (R206). -/
def execDecS16 (s : State) : Result State :=
  andThen (payloadInt16 0 s) fun v => .next (deliver [v] .s16 s)

/-- `DEC.S8` (R208). -/
def execDecS8 (s : State) : Result State := decodeByte 0 s

/-- `DEC.SHORT`: a declared length of 0, 1 or 2 decodes to nothing (R203). -/
def execDecShort (s : State) : Result State := .next (emptyResult .shortLength s)

/-- `DEC.OTHER`: the construction parameter `OTHERLEN_POLICY` says which (R209; log 13). -/
def execDecOther (s : State) : Result State :=
  match s.cfg.otherLen with
  | .firstByte => decodeByte 0 s
  | .empty => .next (emptyResult .none s)

/-- The rule that the dispatch selects, run on the frame (R204). -/
def runRule (r : DecodeRule) (s : State) : Result State :=
  match r with
  | .list6 => execDecList6 s
  | .list4 => execDecList4 s
  | .s8Sec => execDecS8Sec s
  | .s16 => execDecS16 s
  | .s8 => execDecS8 s
  | .short => execDecShort s
  | .other => execDecOther s

/-- `DECODE(expected)`: no frame, then the command check, which a frame of declared length 0 has no byte for, then the
dispatch on declared length and command code (R200 to R204, R211, 60_exceptions.md R238). -/
def execDecode (expected : Byte) (s : State) : Result State :=
  if s.fvalid = true then
    andThen (fbRead 2 s) fun len =>
      if len = 0 then runRule (selectRule s.cfg.constants len none) s
      else
        andThen (fbRead 3 s) fun cmd =>
          if cmd = expected then runRule (selectRule s.cfg.constants len (some cmd)) s
          else .next (emptyResult .commandMismatch s)
  else .next (emptyResult .noFrame s)

/-- `unwrapSingle`: the first element, or the sentinel for an empty result; no register is written (R212). -/
def execUnwrapSingle (s : State) : Result State :=
  if 1 ≤ s.rcnt.toNat then andThen (resRead 0 s) fun v => .next (setReply (.integer v.toInt) s)
  else .next (setReply (.integer s.cfg.constants.unwrapSentinel) s)

end Sys2Proof.Machine
end

