-- ==== Sys2Proof/Machine/FrameReader.lean ====
section
/-! DEFINITION. The FrameReader (43_framereader.md): the request `READFRAME`, the actions of the three header rows, and
the step `CHAT`. The step `SEEK` reads a header in Machine/Fetch.lean and runs the row it selects. -/

namespace Sys2Proof.Machine

/-- The error kind of a transport that runs short inside a chatter frame, `CHATTER_TRUNC` (00_scope.md R10, R175), is
`IncompleteFrame`: the cycle ends as R178 says (UNVERIFIED: the spec's own decision D8; log 19). -/
def failChatter (s : State) : State := failIncomplete s

/-- The FrameReader is specified for `CFG.PRE_READ = None` only; another value is refused (10_state.md R26; log 14). -/
def withoutPreRead (s : State) (o : Result State) : Result State :=
  match s.cfg.preRead with
  | none => o
  | some _ => .refused .preReadNotAdmitted

/-- `READFRAME`: the start of a cycle, before any byte is read (R171). -/
def startCycle (s : State) : State :=
  let s := dropFrame (clearError s)
  { s with st := .seekingFrame, caller := { s.caller with waiting := true, reply := .nothing } }

/-- `READFRAME` (R170, R171). The steps of the cycle follow, one at a time (00_scope.md R7; log 9). -/
def execReadFrame (s : State) : Result State := withoutPreRead s (.next (startCycle s))

/-- Action `CHATTER`: the three header bytes just consumed are counted; `instr` is thrown away (R174). -/
def execHdrChatter (s : State) : Result State :=
  withoutPreRead s (.next (setSeq .readingChatter (countSkipped 3 s)))

/-- The whole frame has arrived: `MemWrite(0, 3, h)`, `MemWrite(3, L, b)`, `FLEN`, `FVALID`, `ERR`, `ERRN`, and the cycle
ends in `FrameFound` (R176). -/
def storeFrame (len : Byte) (body : List Byte) (s : State) : Result State :=
  andThen (memWrite 0 [s.cfg.constants.hdrReal, s.cfg.constants.hdrReal, len] s) fun s =>
    andThen (memWrite 3 body s) fun s =>
      .next (endCycle .frameFound (clearError { s with flen := BitVec.ofNat 9 (3 + len.toNat), fvalid := true }))

/-- Action `FRAME`: exactly `len` more bytes are the body; fewer end the cycle with `IncompleteFrame` (R176, R178). -/
def execHdrFrame (len : Byte) (s : State) : Result State :=
  withoutPreRead s
    (let (body, s) := rxReadCounted len.toNat s
     if body.length < len.toNat then .next (failIncomplete s) else storeFrame len body s)

/-- Action `DESYNC`: the offending bytes are reported and the cycle ends (R177). -/
def execHdrDesync (h : List Byte) (s : State) : Result State := withoutPreRead s (.next (failDesync h s))

/-- The body of a chatter frame, read after its length byte and discarded (R175). -/
def skipBody (n : Nat) (s : State) : Result State :=
  let (body, s) := rxReadCounted n s
  let s := countSkipped body.length s
  if body.length < n then .next (failChatter s) else .next (setSeq .seekingFrame s)

/-- Step `CHAT`: one length byte, then that many body bytes, all discarded and counted; the cycle goes on with `SEEK`
(R175). -/
def chatStep (s : State) : Result State :=
  withoutPreRead s
    (let (l, s) := rxRead 1 s
     let s := countSkipped l.length s
     match l with
     | [] => .next (failChatter s)
     | n :: _ => skipBody n.toNat s)

end Sys2Proof.Machine
end

