-- ==== Sys2Proof/Machine/Dispatch.lean ====
section
/-! DEFINITION. The one match from instruction to meaning. -/

namespace Sys2Proof.Machine

def exec (i : Instr) (s : State) : Host.Outcome State Fault Refusal :=
  match i with
  -- header words (30_encoding.md R83)
  | .hdrChatter _ => Sys2Proof.Machine.execHdrChatter s
  | .hdrFrame len => Sys2Proof.Machine.execHdrFrame len s
  | .hdrDesync h => Sys2Proof.Machine.execHdrDesync h s
  -- dispatch keys (R85)
  | .decList6 _ => Sys2Proof.Machine.execDecList6 s
  | .decList4 _ => Sys2Proof.Machine.execDecList4 s
  | .decS8Sec => Sys2Proof.Machine.execDecS8Sec s
  | .decS16 _ => Sys2Proof.Machine.execDecS16 s
  | .decS8 _ => Sys2Proof.Machine.execDecS8 s
  | .decShort _ _ => Sys2Proof.Machine.execDecShort s
  | .decOther _ _ => Sys2Proof.Machine.execDecOther s
  -- operations (R95)
  | .encodeInt8 value => Sys2Proof.Machine.execEncodeInt8 value s
  | .encodeInt16 value => Sys2Proof.Machine.execEncodeInt16 value s
  | .decodeInt8 b => Sys2Proof.Machine.execDecodeInt8 b s
  | .decodeInt16 hi lo => Sys2Proof.Machine.execDecodeInt16 hi lo s
  | .angleToInt angleDegrees => Sys2Proof.Machine.execAngleToInt angleDegrees s
  | .coordToInt coordMm => Sys2Proof.Machine.execCoordToInt coordMm s
  | .intToAngle raw => Sys2Proof.Machine.execIntToAngle raw s
  | .intToCoord raw => Sys2Proof.Machine.execIntToCoord raw s
  | .flatten items => Sys2Proof.Machine.execFlatten items s
  | .buildCommandPayload args => Sys2Proof.Machine.execBuildCommandPayload args s
  | .readFrame => Sys2Proof.Machine.execReadFrame s
  | .decode expected => Sys2Proof.Machine.execDecode expected s
  | .unwrapSingle => Sys2Proof.Machine.execUnwrapSingle s

end Sys2Proof.Machine
end

