-- ==== Sys2Proof/Machine/Fetch.lean ====
section
/-! DEFINITION. What a step runs (00_scope.md R7): inside a read cycle the FrameReader step that `ST` names
(43_framereader.md R170), otherwise the caller's next request (R8, 20_memory.md R65); and the placing of an instruction
where the next step fetches it. -/

namespace Sys2Proof.Machine

/-- What the next step does. -/
inductive Fetched where
  /-- The caller has no request; the block does nothing (70_reset_and_hazards.md R260). -/
  | idle
  /-- An instruction, and the state after it has been fetched. -/
  | instr (i : Instr) (s : State)
  /-- The step `CHAT` of a read cycle (R175). -/
  | chat
  /-- A request that is no instruction. -/
  | reject (why : Reject)
  deriving DecidableEq, Repr

/-- The caller's next request, taken from its list (R8, R95). -/
def fetchRequest (s : State) : Fetched :=
  match s.caller.requests with
  | [] => .idle
  | r :: rest =>
    match decodeRequest r with
    | .ok i => .instr i { s with caller := { s.caller with requests := rest } }
    | .error why => .reject why

/-- Step `SEEK`: the header read selects the row (R172). -/
def fetchHeader (s : State) : Fetched :=
  let (h, s) := rxRead 3 s
  .instr (decodeHeader s.cfg.constants h) s

/-- What the next step runs (R7, R170). A cycle is in progress while the caller waits and `ST` is not terminal (R21,
R184; log 8). -/
def fetch (s : State) : Fetched :=
  match s.caller.waiting, s.st with
  | true, .seekingFrame => fetchHeader s
  | true, .readingChatter => .chat
  | _, _ => fetchRequest s

/-! ### Placing an instruction (log 26) -/

/-- The request is the caller's next. -/
def placeRequest (r : Request) (s : State) : State :=
  { s with caller := { s.caller with requests := r :: s.caller.requests, waiting := false } }

/-- The header bytes are the next of the inbound stream, handed back whole, and a read cycle stands at `SEEK`. -/
def placeHeader (h : List Byte) (s : State) : State :=
  { s with
    st := .seekingFrame
    transport := { s.transport with rx := h ++ s.transport.rx, answers := h.length :: s.transport.answers }
    caller := { s.caller with waiting := true } }

/-- The real frame with this dispatch key and zeros for payload and footer (R80). -/
def keyFrame (k : Constants) (len cmd : Byte) : List Byte :=
  [k.hdrReal, k.hdrReal, len] ++ (cmd :: List.replicate 254 0).take len.toNat

/-- A frame with this dispatch key stands in the frame buffer and the caller's next request decodes it. -/
def placeKey (len cmd : Byte) (s : State) : State :=
  placeRequest ⟨11, .bytes [cmd]⟩
    { s with
      fb := Memory.writeBytes [] 0 (keyFrame s.cfg.constants len cmd)
      flen := BitVec.ofNat 9 (3 + len.toNat)
      fvalid := true }

/-- Places the instruction with this code. -/
def placeCode : Code → State → State
  | .request r, s => placeRequest r s
  | .header h, s => placeHeader h s
  | .key (len :: rest), s => placeKey len (rest.headD 0) s
  | .key [], s => s

end Sys2Proof.Machine
end

