-- ==== Sys2Proof/Machine/Step.lean ====
section
/-! DEFINITION. One step of the block (00_scope.md R7), and the placing of a table word where the next step fetches it. -/

namespace Sys2Proof.Machine

/-- One step: the instruction that is fetched, or the step `CHAT`, or nothing while the caller asks for nothing. -/
def step (s : State) : Host.Outcome State Fault Refusal :=
  match fetch s with
  | .idle => .next s
  | .instr i s' => exec i s'
  | .chat => chatStep s
  | .reject why => .refused (.notAnInstruction why)

/-- The state with the instruction of this table word placed where `step` fetches next (log 26). -/
def State.withFetchWord (s : State) (nbits w : Nat) : State :=
  match tableCode nbits w with
  | some c => placeCode c s
  | none => s

end Sys2Proof.Machine
end

