-- ==== Sys2Proof/Safety.lean ====
section
/-! DEFINITION. The terms in which claims are stated: what a consistent state is (10_state.md R20 to R25), what a stop is,
a frame held by the buffer, the streams and requests that claims speak of, and the spec's own whole-operation pseudocode
(43_framereader.md R179, 44_decoder.md R211) as functions of byte sequences. -/

namespace Sys2Proof

open Machine

/-! ### Frames in the buffer -/

/-- The buffer holds this frame, not yet decoded: every byte of it can be read, and its length is `FLEN` (R22, R60). -/
def HoldsFrame (s : State) (frame : List Byte) : Prop :=
  s.fvalid = true ∧ s.flen.toNat = frame.length ∧ ∀ (i : Nat) (h : i < frame.length), fbRead i s = .next frame[i]

/-- A real frame with this body (R80, R176). -/
def realFrame (k : Constants) (len : Byte) (body : List Byte) : List Byte := [k.hdrReal, k.hdrReal, len] ++ body

/-- A chatter frame with this body (R81). -/
def chatterFrame (k : Constants) (instr : Byte) (body : List Byte) : List Byte :=
  [k.hdrChat, k.hdrChat, instr, BitVec.ofNat 8 body.length] ++ body

/-! ### Constants -/

/-- A body length that a list row or the pair row can have: it is that of no other row named here, fits a length byte, and
gives at most six lanes. -/
def RowLength (k : Constants) (bl : Int) : Prop := 1 < bl ∧ bl ≤ 13 ∧ bl + k.lenOverhead ≤ 255

/-- Constants under which the encodings keep their rows apart and every row's bytes stand in its frame, the printed ones among
them (00_scope.md R9, 30_encoding.md R83, R85). -/
structure Coherent (k : Constants) : Prop where
  markers : k.hdrReal ≠ k.hdrChat
  overhead : 1 ≤ k.lenOverhead
  listA : RowLength k k.blListA
  listB : RowLength k k.blListB
  pair : RowLength k k.blPair
  lists : k.blListA ≠ k.blListB
  pairA : k.blPair ≠ k.blListA
  pairB : k.blPair ≠ k.blListB

/-! ### Consistent states -/

/-- What `RKIND` says of `RCNT` and `RES` (R24). -/
def ResultShape (s : State) : Prop :=
  match s.rkind with
  | .empty => s.rcnt.toNat = 0
  | .listS16 =>
    s.rcnt.toNat ≤ 6 ∧
      (s.rcnt.toNat = (s.cfg.constants.blListA / 2).toNat ∨ s.rcnt.toNat = (s.cfg.constants.blListB / 2).toNat)
  | .s16 => s.rcnt.toNat = 1
  | .s8 => s.rcnt.toNat = 1 ∧ -128 ≤ s.res.x0.toInt ∧ s.res.x0.toInt ≤ 127

/-- A read cycle is in progress (R170, R184). -/
def InCycle (s : State) : Prop := s.caller.waiting = true ∧ (s.st = .seekingFrame ∨ s.st = .readingChatter)

/-- The states in which the registers fit together as 10_state.md R21 to R24 say. -/
structure Consistent (s : State) : Prop where
  /-- The frame buffer is in canonical form. -/
  memory : Memory.wf s.fb = true
  /-- `FLEN` is at most `FBMAX` (R22). -/
  length : s.flen.toNat ≤ Config.fbMax
  /-- While `FVALID = 1` the buffer holds a real frame, whole (R22). -/
  frame : s.fvalid = true → ∃ (len : Byte) (body : List Byte),
    body.length = len.toNat ∧ HoldsFrame s (realFrame s.cfg.constants len body)
  /-- A frame is held only after a read cycle that ended in `FrameFound` (R21, R22). -/
  found : s.fvalid = true → s.st = .frameFound
  /-- While the caller waits, a read cycle is in progress (R170, R184). -/
  waiting : s.caller.waiting = true → s.st = .seekingFrame ∨ s.st = .readingChatter
  /-- `ReadingChatter` is a state inside a read cycle (R21). -/
  chatter : s.st = .readingChatter → s.caller.waiting = true
  /-- `ERRN` is 0 unless `ERR = ReadError` (R23). -/
  offending : s.errN ≠ 0 → s.err = .readError
  /-- `RCNT`, `RKIND` and `RES` agree (R24). -/
  result : ResultShape s

/-! ### Stops -/

/-- A step goes on, or it refuses a request of the caller that is no instruction; it stops for no other reason. -/
def GoesOn (o : Host.Outcome State Fault Refusal) : Prop :=
  (∃ t, o = .next t) ∨ ∃ why, o = .refused (.notAnInstruction why)

/-! ### Requests and streams -/

/-- No read cycle is in progress and the caller's next request is this one. -/
def Requested (s : State) (r : Request) (rest : List Request) : Prop :=
  ¬ InCycle s ∧ s.caller.requests = r :: rest

/-- The deterministic transport of the test vectors: a finite stream, short only at its end (R52, D28). -/
def FiniteStream (s : State) : Prop := s.transport.again = [] ∧ s.transport.answers = []

/-- The stream begins with these bytes, and the transport hands back all it is asked for (R51, D28). -/
def StreamBegins (s : State) (bs rest : List Byte) : Prop :=
  s.transport.rx = bs ++ rest ∧ s.transport.answers = []

/-! ### Operands -/

/-- An item of a nested sequence (42_codec_payload.md R150). -/
inductive Item where
  | scalar (v : Rat)
  | seq (items : Nested)

/-- The items of a nested sequence, one level deep, in their order (R150). -/
def itemsOf : Nested → List Item
  | .nil => []
  | .scalar v rest => .scalar v :: itemsOf rest
  | .seq inner rest => .seq inner :: itemsOf rest

/-- Every `CLOSE` closes an `OPEN` before it and every `OPEN` is closed, with `depth` of them open at the start (R150). -/
def bracketed : Nat → List Token → Bool
  | depth, [] => depth == 0
  | depth, .scalar _ :: ts => bracketed depth ts
  | depth, .openSeq :: ts => bracketed (depth + 1) ts
  | 0, .closeSeq :: _ => false
  | depth + 1, .closeSeq :: ts => bracketed depth ts

/-- The `SCALAR` tokens of a token stream, in their order (R151). -/
def scalarTokens : List Token → List Rat
  | [] => []
  | .scalar v :: ts => v :: scalarTokens ts
  | .openSeq :: ts => scalarTokens ts
  | .closeSeq :: ts => scalarTokens ts

/-- The integers of the inner lists of an argument list, in their order (R153). -/
def innerNumbers : List Arg → List Int
  | [] => []
  | .scalar _ :: args => innerNumbers args
  | .numbers vs :: args => vs ++ innerNumbers args

/-- The two bytes of a 16-bit value as numbers, high byte first (R112). -/
def wordNumbers (v : Int) : List Rat := [((v % 65536 / 256 : Int) : Rat), ((v % 65536 % 256 : Int) : Rat)]

/-- Every scalar at its place, every integer of an inner list replaced by its two bytes (R153). -/
def splicedNumbers : List Arg → List Rat
  | [] => []
  | .scalar v :: args => v :: splicedNumbers args
  | .numbers vs :: args => vs.flatMap wordNumbers ++ splicedNumbers args

/-! ### The spec's pseudocode over byte sequences -/

/-- How a read cycle over a finite stream ends (R179). -/
structure CycleEnd where
  /-- The frame found, if one was. -/
  frame : Option (List Byte)
  /-- `ERR`. -/
  err : ErrKind
  /-- `ERRBYTES[0..ERRN)`. -/
  offending : List Byte
  /-- The bytes not consumed. -/
  rest : List Byte
  /-- How much `SKIPPED` has grown. -/
  skipped : Nat
  deriving DecidableEq, Repr

/-- R179 over a finite stream, the loop bounded by `fuel`; a turn of the loop consumes at least four bytes, so a bound of
one more than the number of bytes is never met. -/
def cycleOver (k : Constants) : Nat → List Byte → Nat → CycleEnd
  | 0, rx, skipped => ⟨none, .readError, [], rx, skipped⟩
  | fuel + 1, rx, skipped =>
    match rx with
    | h0 :: h1 :: h2 :: r =>
      if h0 = k.hdrChat ∧ h1 = k.hdrChat then
        match r with
        | [] => ⟨none, .incompleteFrame, [], [], skipped + 3⟩
        | n :: r =>
          if r.length < n.toNat then ⟨none, .incompleteFrame, [], [], skipped + 4 + r.length⟩
          else cycleOver k fuel (r.drop n.toNat) (skipped + 4 + n.toNat)
      else if h0 = k.hdrReal ∧ h1 = k.hdrReal then
        if r.length < h2.toNat then ⟨none, .incompleteFrame, [], [], skipped⟩
        else ⟨some (h0 :: h1 :: h2 :: r.take h2.toNat), .none, [], r.drop h2.toNat, skipped⟩
      else ⟨none, .readError, [h0, h1, h2], r, skipped⟩
    | short => ⟨none, .readError, short, [], skipped⟩

/-- R211 over the bytes of a frame, under the printed constants: `ERR`, `RKIND` and the elements of the result. -/
def decodeOver (policy : OtherLenPolicy) (expected : Byte) (frame : List Byte) : ErrKind × ResultKind × List Int :=
  let len := (frame.getD 2 0).toNat
  let cmd := frame.getD 3 0
  let p : Nat → Byte := fun k => frame.getD (4 + k) 0
  let word : Nat → Int := fun k => (p (2 * k) ++ p (2 * k + 1)).toInt
  if 1 ≤ len ∧ cmd ≠ expected then (.commandMismatch, .empty, [])
  else if len ≤ 2 then (.shortLength, .empty, [])
  else if len = 14 then (.none, .listS16, [word 0, word 1, word 2, word 3, word 4, word 5])
  else if len = 10 then (.none, .listS16, [word 0, word 1, word 2, word 3])
  else if len = 4 then
    if cmd = 0x50 then (.none, .s8, [(p 1).toInt]) else (.none, .s16, [word 0])
  else if len = 3 ∨ policy = .firstByte then (.none, .s8, [(p 0).toInt])
  else (.none, .empty, [])

end Sys2Proof
end

