-- ==== Sys2Proof/Certificates/Slice0/Obligations.lean ====
section
/-! DEFINITION. The statements for the provers. Each docstring names the rules of spec/ it formalises. Where a rule is a
decision or a derivation of the spec's own, or where a clause rests on an entry of the assumption log, the docstring says
so. "The result" of an operation stands in `caller.reply` throughout (log 7). -/

open Sys2Proof Sys2Proof.Machine

/-! ### Steps and instructions -/

/-- Outside a read cycle a step takes the caller's next request and runs the instruction it decodes to, on the state with
the request taken; a request that decodes to none is refused; with no request the block does nothing (00 R7, R8; 70 R260;
the list of requests is log 1, DESIGN CHOICE). -/
def Obligations.StepRunsRequestedInstruction : Prop :=
  (∀ (s : State) (r : Request) (rest : List Request), Requested s r rest →
    (∀ i, decodeRequest r = .ok i →
      step s = exec i { s with caller := { s.caller with requests := rest } }) ∧
    (∀ why, decodeRequest r = .error why → step s = .refused (.notAnInstruction why))) ∧
  (∀ s : State, ¬ InCycle s → s.caller.requests = [] → step s = .next s)

/-- Inside a read cycle a step reads three bytes and runs the header row they decode to, or takes step `CHAT`, as `ST` says
(43 R170, R172; the flag that a cycle is in progress is log 8, DESIGN CHOICE). -/
def Obligations.StepRunsHeaderInstruction : Prop :=
  ∀ s : State, s.caller.waiting = true →
    (s.st = .seekingFrame →
      step s =
        exec (decodeHeader s.cfg.constants (rxTake 3 s.transport)) { s with transport := rxAdvance 3 s.transport }) ∧
    (s.st = .readingChatter → step s = chatStep s)

/-- `DECODE` runs, in the same step, the row that the dispatch key of the frame decodes to, once the command check has passed;
under the printed constants that is the first row of 30 R85 that matches the key under its mask; a frame of declared length 0
runs `DEC.SHORT` whatever is expected (44 R202, R204; the last is decision D11). -/
def Obligations.DecodeRunsDispatchedRow : Prop :=
  ∀ (s : State) (len cmd : Byte), s.fvalid = true → fbRead 2 s = .next len →
    (len ≠ 0 → fbRead 3 s = .next cmd →
      (∀ i, decodeKey s.cfg.constants [len, cmd] = .ok i → exec (.decode cmd) s = exec i s) ∧
      (s.cfg.constants = .printed →
        exec (.decode cmd) s = exec (ruleInstr len cmd (printedKeyRule (len ++ cmd))) s)) ∧
    (len = 0 → 0 ≤ s.cfg.constants.lenOverhead → exec (.decode cmd) s = exec (.decShort 0 none) s)

/-! ### The integer codec (40_codec_integer.md) -/

/-- R111. In range: one byte, `value mod 256`, and `ERR <- None`. Out of range: `RangeError` with the value, no byte. Nothing
else changes; what `ERRN` becomes is said in `OperationsWriteOnlyTheirRegisters`. -/
def Obligations.EncodeInt8EncodesOrRaises : Prop :=
  ∀ (s : State) (v : Int),
    (-128 ≤ v ∧ v ≤ 127 → ∃ (b : Byte) (t : State), (b.toNat : Int) = v % 256 ∧ exec (.encodeInt8 v) s = .next t ∧
      t = { s with err := .none, errN := t.errN, caller := { s.caller with reply := .bytes [b] } }) ∧
    (v < -128 ∨ 127 < v → ∃ t : State, exec (.encodeInt8 v) s = .next t ∧
      t = { s with err := .rangeError, errN := t.errN, caller := { s.caller with reply := .rangeError v } })

/-- R112. In range: two bytes, the high byte of `value mod 65536` first, and `ERR <- None`. Out of range: `RangeError` with
the value, no byte. Nothing else changes; what `ERRN` becomes is said in `OperationsWriteOnlyTheirRegisters`. -/
def Obligations.EncodeInt16EncodesOrRaises : Prop :=
  ∀ (s : State) (v : Int),
    (-32768 ≤ v ∧ v ≤ 32767 → ∃ (hi lo : Byte) (t : State),
      (hi.toNat : Int) = v % 65536 / 256 ∧ (lo.toNat : Int) = v % 65536 % 256 ∧ exec (.encodeInt16 v) s = .next t ∧
      t = { s with err := .none, errN := t.errN, caller := { s.caller with reply := .bytes [hi, lo] } }) ∧
    (v < -32768 ∨ 32767 < v → ∃ t : State, exec (.encodeInt16 v) s = .next t ∧
      t = { s with err := .rangeError, errN := t.errN, caller := { s.caller with reply := .rangeError v } })

/-- R114. The result is the signed value of the byte, in [-128, 127], and nothing else changes. -/
def Obligations.DecodeInt8GivesSignedByte : Prop :=
  ∀ (s : State) (b : Byte), ∃ v : Int,
    exec (.decodeInt8 b) s = .next { s with caller := { s.caller with reply := .integer v } } ∧
    v = b.toInt ∧ (v = b.toNat ↔ b.toNat < 128) ∧ (v = b.toNat - 256 ↔ 128 ≤ b.toNat) ∧ -128 ≤ v ∧ v ≤ 127

/-- R115. The result is the signed value of the two bytes, high byte first, in [-32768, 32767], and nothing else changes. -/
def Obligations.DecodeInt16GivesSignedWord : Prop :=
  ∀ (s : State) (hi lo : Byte), ∃ v : Int,
    exec (.decodeInt16 hi lo) s = .next { s with caller := { s.caller with reply := .integer v } } ∧
    v = (hi ++ lo).toInt ∧ (v = 256 * hi.toNat + lo.toNat ↔ 256 * hi.toNat + lo.toNat < 32768) ∧
    -32768 ≤ v ∧ v ≤ 32767

/-- Encoding and decoding are inverse to each other, both ways and for both widths (40, the round-trip laws; the converse
direction is the spec's own derivation). -/
def Obligations.IntegerCodecRoundTrips : Prop :=
  ∀ s s' : State,
    (∀ v : Int, -32768 ≤ v → v ≤ 32767 → ∃ hi lo t t', exec (.encodeInt16 v) s = .next t ∧
      t.caller.reply = .bytes [hi, lo] ∧ exec (.decodeInt16 hi lo) s' = .next t' ∧ t'.caller.reply = .integer v) ∧
    (∀ v : Int, -128 ≤ v → v ≤ 127 → ∃ b t t', exec (.encodeInt8 v) s = .next t ∧
      t.caller.reply = .bytes [b] ∧ exec (.decodeInt8 b) s' = .next t' ∧ t'.caller.reply = .integer v) ∧
    (∀ hi lo : Byte, ∃ v t t', exec (.decodeInt16 hi lo) s = .next t ∧ t.caller.reply = .integer v ∧
      exec (.encodeInt16 v) s' = .next t' ∧ t'.caller.reply = .bytes [hi, lo] ∧ t'.err = .none) ∧
    (∀ b : Byte, ∃ v t t', exec (.decodeInt8 b) s = .next t ∧ t.caller.reply = .integer v ∧
      exec (.encodeInt8 v) s' = .next t' ∧ t'.caller.reply = .bytes [b] ∧ t'.err = .none)

/-! ### The unit scale (41_codec_scale.md) -/

/-- `angleToInt` hands back an integer nearest to `angleDegrees * ANGLE_SCALE` (100 as printed), the even one at a tie under
ties to even, and changes nothing else (41, `angleToInt` and `rnd`; the exact rationals are decision D4, log 15, the tie rule
D5, log 12). -/
def Obligations.AngleToIntRoundsToNearest : Prop :=
  ∀ (s : State) (a : Rat), ∃ n : Int,
    exec (.angleToInt a) s = .next { s with caller := { s.caller with reply := .integer n } } ∧
    |a * s.cfg.constants.angleScale - n| ≤ 1 / 2 ∧
    (s.cfg.tieRule = .toEven → |a * s.cfg.constants.angleScale - n| = 1 / 2 → n % 2 = 0)

/-- `coordToInt` hands back an integer nearest to `coordMm * COORD_SCALE` (10 as printed), the even one at a tie under ties to
even, and changes nothing else (41, `coordToInt` and `rnd`; D4, log 15, D5, log 12). -/
def Obligations.CoordToIntRoundsToNearest : Prop :=
  ∀ (s : State) (c : Rat), ∃ n : Int,
    exec (.coordToInt c) s = .next { s with caller := { s.caller with reply := .integer n } } ∧
    |c * s.cfg.constants.coordScale - n| ≤ 1 / 2 ∧
    (s.cfg.tieRule = .toEven → |c * s.cfg.constants.coordScale - n| = 1 / 2 → n % 2 = 0)

/-- `intToAngle` and `intToCoord` hand back the exact quotients: the rounding to decimal places changes nothing, under every
tie rule. Nothing else changes (41; that the rounding changes nothing is the spec's own derivation). -/
def Obligations.IntegersConvertExactly : Prop :=
  ∀ (s : State) (raw : Int),
    (s.cfg.constants.angleScale = 100 →
      exec (.intToAngle raw) s = .next { s with caller := { s.caller with reply := .physical (raw / 100) } }) ∧
    (s.cfg.constants.coordScale = 10 →
      exec (.intToCoord raw) s = .next { s with caller := { s.caller with reply := .physical (raw / 10) } })

/-- The unit round trips: within 0.005 degrees and 0.05 mm one way, exact the other way, for every rational and every
integer and every tie rule (41, the round-trip properties, partly the spec's own derivation; D4). -/
def Obligations.UnitRoundTripsAreBounded : Prop :=
  ∀ s : State, s.cfg.constants.angleScale = 100 → s.cfg.constants.coordScale = 10 →
    (∀ a : Rat, ∃ n t q u, exec (.angleToInt a) s = .next t ∧ t.caller.reply = .integer n ∧
      exec (.intToAngle n) t = .next u ∧ u.caller.reply = .physical q ∧ |q - a| ≤ 5 / 1000) ∧
    (∀ c : Rat, ∃ n t q u, exec (.coordToInt c) s = .next t ∧ t.caller.reply = .integer n ∧
      exec (.intToCoord n) t = .next u ∧ u.caller.reply = .physical q ∧ |q - c| ≤ 5 / 100) ∧
    (∀ r : Int, ∃ q t u, exec (.intToAngle r) s = .next t ∧ t.caller.reply = .physical q ∧
      exec (.angleToInt q) t = .next u ∧ u.caller.reply = .integer r) ∧
    (∀ r : Int, ∃ q t u, exec (.intToCoord r) s = .next t ∧ t.caller.reply = .physical q ∧
      exec (.coordToInt q) t = .next u ∧ u.caller.reply = .integer r)

/-- Under ties to even a negative operand is treated like a positive one (41, the arithmetic laws, the spec's own derivation;
D5). -/
def Obligations.RoundingIsOdd : Prop :=
  ∀ (s : State) (q : Rat), s.cfg.tieRule = .toEven →
    (∃ n t u, exec (.angleToInt q) s = .next t ∧ t.caller.reply = .integer n ∧
      exec (.angleToInt (-q)) s = .next u ∧ u.caller.reply = .integer (-n)) ∧
    (∃ n t u, exec (.coordToInt q) s = .next t ∧ t.caller.reply = .integer n ∧
      exec (.coordToInt (-q)) s = .next u ∧ u.caller.reply = .integer (-n))

/-! ### Payload assembly (42_codec_payload.md) -/

/-- R151. `flatten` hands back the `SCALAR` tokens of its operand in their order, unchanged, and changes nothing else. -/
def Obligations.FlattenKeepsScalarTokens : Prop :=
  ∀ (s : State) (n : Nested),
    exec (.flatten n) s =
      .next { s with caller := { s.caller with reply := .sequence (scalarTokens (tokensOf n)) } }

/-- Flattening a flat sequence gives the same sequence, and flattening twice gives what flattening once gives (42, the laws
of `flatten`). -/
def Obligations.FlattenIsIdempotent : Prop :=
  ∀ (s : State),
    (∀ xs : List Rat,
      exec (.flatten (nestedOfList xs)) s = .next { s with caller := { s.caller with reply := .sequence xs } }) ∧
    (∀ n : Nested, ∃ xs t, exec (.flatten n) s = .next t ∧ t.caller.reply = .sequence xs ∧
      exec (.flatten (nestedOfList xs)) s = .next t)

/-- R153. Every scalar stands unchanged at its place and every integer of an inner list is replaced by its two bytes; the
first integer out of range, in order, raises `RangeError` and leaves no result. Nothing else changes; what `ERRN` becomes is
said in `OperationsWriteOnlyTheirRegisters`. -/
def Obligations.BuildCommandPayloadSplicesOrRaises : Prop :=
  ∀ (s : State) (args : List Arg),
    ((∀ v ∈ innerNumbers args, -32768 ≤ v ∧ v ≤ 32767) → ∃ t : State, exec (.buildCommandPayload args) s = .next t ∧
      t = { s with
        err := .none, errN := t.errN, caller := { s.caller with reply := .sequence (splicedNumbers args) } }) ∧
    (∀ (before after : List Int) (v : Int), innerNumbers args = before ++ v :: after →
      (∀ u ∈ before, -32768 ≤ u ∧ u ≤ 32767) → (v < -32768 ∨ 32767 < v) →
      ∃ t : State, exec (.buildCommandPayload args) s = .next t ∧
        t = { s with err := .rangeError, errN := t.errN, caller := { s.caller with reply := .rangeError v } })

/-! ### The FrameReader (43_framereader.md) and the streams (20_memory.md) -/

/-- A `READFRAME` request starts a cycle: `ST <- SeekingFrame`, `FVALID`, `FLEN`, `ERR` and `ERRN` cleared, no byte of the
frame buffer readable, `RES`, `RCNT`, `RKIND`, `SKIPPED` and the stream as they were (43, start of a cycle: decision D16;
log 8). -/
def Obligations.ReadFrameStartsCycle : Prop :=
  ∀ s : State, s.cfg.preRead = none → ∃ t, exec .readFrame s = .next t ∧
    InCycle t ∧ t.st = .seekingFrame ∧ t.fvalid = false ∧ t.flen = 0 ∧ t.err = .none ∧ t.errN = 0 ∧
    (∀ a, a < 258 → fbRead a t = .refused .noValue) ∧
    t.res = s.res ∧ t.rcnt = s.rcnt ∧ t.rkind = s.rkind ∧ t.skipped = s.skipped ∧ t.errBytes = s.errBytes ∧
    t.cfg = s.cfg ∧ t.transport = s.transport ∧ t.caller.requests = s.caller.requests

/-- R83, with the markers that R9 prints. A header word with the chatter marker under the mask is `HDR.CHATTER`, one with the
real marker is `HDR.FRAME`, the third byte never matters to the class, and every other word, and every header of fewer than
three bytes, is `HDR.DESYNC`. -/
def Obligations.HeaderWordsClassify : Prop :=
  ∀ k : Constants, k.hdrChat = 0xFF → k.hdrReal = 0xFE →
    (∀ h0 h1 h2 : Byte,
      ((h0 ++ h1 ++ h2) &&& 0xFFFF00#24 = 0xFFFF00#24 → decodeHeader k [h0, h1, h2] = .hdrChatter h2) ∧
      ((h0 ++ h1 ++ h2) &&& 0xFFFF00#24 = 0xFEFE00#24 → decodeHeader k [h0, h1, h2] = .hdrFrame h2) ∧
      ((h0 ++ h1 ++ h2) &&& 0xFFFF00#24 ≠ 0xFFFF00#24 → (h0 ++ h1 ++ h2) &&& 0xFFFF00#24 ≠ 0xFEFE00#24 →
        decodeHeader k [h0, h1, h2] = .hdrDesync [h0, h1, h2])) ∧
    (∀ h : List Byte, h.length < 3 → decodeHeader k h = .hdrDesync h)

/-- R51. `RxRead(n)` returns at most `n` bytes, the next of the stream in order; they are consumed and the cursor moves by
exactly their number; over a listed stream a later read starts at the byte after the last one returned. Every number of
bytes that the environment may draw is allowed (the draws are log 2). -/
def Obligations.RxReadConsumesWhatItReturns : Prop :=
  ∀ (n : Nat) (s : State), ∃ (r : List Byte) (s' : State), rxRead n s = (r, s') ∧ r.length ≤ n ∧
    s'.transport.cursor = s.transport.cursor + r.length ∧
    s' = { s with transport := s'.transport } ∧ s'.transport.tx = s.transport.tx ∧
    (s.transport.again = [] ∨ n ≤ s.transport.rx.length → s.transport.rx = r ++ s'.transport.rx) ∧
    (∃ k, s.transport.rx ++ (List.replicate k s.transport.again).flatten = r ++ s'.transport.rx) ∧
    (∀ j, j ≤ n → j ≤ s.transport.rx.length →
      (rxRead n { s with transport := { s.transport with answers := [j] } }).1 = s.transport.rx.take j)

/-- Action `CHATTER`: three bytes are counted modulo 2^32, `ST <- ReadingChatter`, and nothing else changes (43, action
CHATTER; the unit and the width are decision D7, log 18). -/
def Obligations.ChatterHeaderIsCounted : Prop :=
  ∀ (s : State) (instr : Byte), s.cfg.preRead = none → ∃ t, exec (.hdrChatter instr) s = .next t ∧
    t.skipped.toNat = (s.skipped.toNat + 3) % 2 ^ 32 ∧ t.st = .readingChatter ∧
    t = { s with skipped := t.skipped, st := t.st }

/-- Step `CHAT`, for every answer of the transport to its two reads: a whole chatter body is skipped and counted and the cycle
seeks again; a missing length byte or a short body ends the cycle with `IncompleteFrame`. Exactly the bytes handed back are
consumed and counted, and nothing else changes (43, step CHAT; decisions D7 and D8, log 18, log 19; the caller is told: log
7, log 8). -/
def Obligations.ChatStepSkipsOrFails : Prop :=
  ∀ s : State, s.caller.waiting = true → s.st = .readingChatter → s.cfg.preRead = none →
    (rxTake 1 s.transport = [] → ∃ t, step s = .next t ∧ (∀ a, a < 258 → fbRead a t = .refused .noValue) ∧
      t = { s with
        st := .readError, fb := t.fb, flen := 0, fvalid := false, err := .incompleteFrame, errN := 0
        transport := rxAdvance 1 s.transport
        caller := { s.caller with waiting := false, reply := .registers } }) ∧
    (∀ (n : Byte) (r : List Byte × State), rxTake 1 s.transport = [n] →
      r = rxReadCounted n.toNat { s with transport := rxAdvance 1 s.transport } →
      (n.toNat ≤ r.1.length →
        step s = .next { s with
          st := .seekingFrame
          skipped := s.skipped + BitVec.ofNat 32 (1 + n.toNat)
          transport := r.2.transport }) ∧
      (r.1.length < n.toNat → ∃ t, step s = .next t ∧ (∀ a, a < 258 → fbRead a t = .refused .noValue) ∧
        t = { s with
          st := .readError, fb := t.fb, flen := 0, fvalid := false, err := .incompleteFrame, errN := 0
          skipped := s.skipped + BitVec.ofNat 32 (1 + r.1.length)
          transport := r.2.transport
          caller := { s.caller with waiting := false, reply := .registers } }))

/-- Step `CHAT` over the transport of the test vectors, byte for byte: the length byte and a whole body, a short body, an empty
stream (43, step CHAT; decisions D7, D8 and D28). -/
def Obligations.ChatStepOverFiniteStream : Prop :=
  ∀ s : State, s.caller.waiting = true → s.st = .readingChatter → s.cfg.preRead = none → FiniteStream s →
    (∀ (n : Byte) (body rest : List Byte), s.transport.rx = n :: (body ++ rest) → body.length = n.toNat →
      step s = .next { s with
        st := .seekingFrame
        skipped := s.skipped + BitVec.ofNat 32 (1 + n.toNat)
        transport := { s.transport with rx := rest, cursor := s.transport.cursor + (1 + n.toNat) } }) ∧
    (∀ (n : Byte) (body : List Byte), s.transport.rx = n :: body → body.length < n.toNat →
      ∃ t, step s = .next t ∧ t = { s with
        st := .readError, fb := t.fb, flen := 0, fvalid := false, err := .incompleteFrame, errN := 0
        skipped := s.skipped + BitVec.ofNat 32 (1 + body.length)
        transport := { s.transport with rx := [], cursor := s.transport.cursor + (1 + body.length) }
        caller := { s.caller with waiting := false, reply := .registers } }) ∧
    (s.transport.rx = [] → ∃ t, step s = .next t ∧ t = { s with
        st := .readError, fb := t.fb, flen := 0, fvalid := false, err := .incompleteFrame, errN := 0
        caller := { s.caller with waiting := false, reply := .registers } })

/-- Action `FRAME` when the whole body is handed back, for every answer of the transport: the buffer holds the frame byte for
byte, `FLEN = 3 + L`, `FVALID = 1`, `ERR = None`, `ERRN = 0`, `ST = FrameFound`, exactly the body is consumed, and nothing else
changes; `L` from 0 to 255. Where the stream begins with `L` bytes and the transport hands back all it is asked for, those are
the body (43, action FRAME; 20, the frame buffer layout; the caller is told: log 7, log 8). -/
def Obligations.FrameHeaderStoresFrame : Prop :=
  ∀ (s : State) (len : Byte) (r : List Byte × State), s.cfg.preRead = none → r = rxReadCounted len.toNat s →
    (len.toNat ≤ r.1.length → ∃ t, exec (.hdrFrame len) s = .next t ∧
      r.1.length = len.toNat ∧ HoldsFrame t (realFrame s.cfg.constants len r.1) ∧ t.flen.toNat = 3 + len.toNat ∧
      t.transport.cursor = s.transport.cursor + len.toNat ∧
      (s.transport.again = [] → s.transport.rx = r.1 ++ t.transport.rx) ∧
      t = { s with
        st := .frameFound, fb := t.fb, flen := t.flen, fvalid := true, err := .none, errN := 0
        transport := r.2.transport
        caller := { s.caller with waiting := false, reply := .registers } }) ∧
    (∀ body rest : List Byte, StreamBegins s body rest → body.length = len.toNat →
      r.1 = body ∧ r.2.transport.rx = rest)

/-- Action `FRAME` when the transport hands back fewer bytes than the body has, at the end of the stream or at a timeout with
bytes still to come: the bytes that did arrive are consumed and lost and the others stay, `ERR <- IncompleteFrame`, `ST <-
ReadError`, no frame, and nothing else changes. A finite stream that is too short is consumed whole (43, failure
IncompleteFrame; decisions D9 and D21; the caller is told: log 7, log 8). -/
def Obligations.FrameHeaderShortBodyIsIncomplete : Prop :=
  ∀ (s : State) (len : Byte) (r : List Byte × State), s.cfg.preRead = none → r = rxReadCounted len.toNat s →
    (r.1.length < len.toNat → ∃ t, exec (.hdrFrame len) s = .next t ∧
      (∀ a, a < 258 → fbRead a t = .refused .noValue) ∧
      t.transport.cursor = s.transport.cursor + r.1.length ∧
      (s.transport.again = [] → s.transport.rx = r.1 ++ t.transport.rx) ∧
      t = { s with
        st := .readError, fb := t.fb, flen := 0, fvalid := false, err := .incompleteFrame, errN := 0
        transport := r.2.transport
        caller := { s.caller with waiting := false, reply := .registers } }) ∧
    (FiniteStream s → s.transport.rx.length < len.toNat → r.1 = s.transport.rx ∧ r.2.transport.rx = [])

/-- A header read that is short or has neither marker ends the cycle: `ERRN` and `ERRBYTES` hold exactly the bytes of the read,
`ERR = ReadError`, `FVALID = 0`, `FLEN = 0`, `ST = ReadError`; the bytes are consumed, nothing more is read, and nothing else
changes (43, action DESYNC). Three clauses are not the rule's own: that the bytes are gone from the stream is decision D6 (log
17), that the bytes of `ERRBYTES` beyond `ERRN` stay stored is log 6 (DESIGN CHOICE), and that the caller is told is log 7 and
log 8. -/
def Obligations.DesyncReportsOffendingBytes : Prop :=
  ∀ (s : State) (h : List Byte), s.caller.waiting = true → s.st = .seekingFrame → s.cfg.preRead = none →
    rxTake 3 s.transport = h →
    (h.length < 3 ∨ ∃ a b c : Byte, h = [a, b, c] ∧
      ¬ (a = s.cfg.constants.hdrChat ∧ b = s.cfg.constants.hdrChat) ∧
      ¬ (a = s.cfg.constants.hdrReal ∧ b = s.cfg.constants.hdrReal)) →
    ∃ t, step s = .next t ∧ exec (.hdrDesync h) { s with transport := rxAdvance 3 s.transport } = .next t ∧
      t.errN.toNat = h.length ∧ (∀ i b, h[i]? = some b → errByteRead i t = .next b) ∧
      (∀ i, h.length ≤ i → t.errBytes.get i = s.errBytes.get i) ∧
      (∀ a, a < 258 → fbRead a t = .refused .noValue) ∧
      t = { s with
        st := .readError, fb := t.fb, flen := 0, fvalid := false, err := .readError, errBytes := t.errBytes
        errN := t.errN, transport := rxAdvance 3 s.transport
        caller := { s.caller with waiting := false, reply := .registers } }

/-- Every transition of `ST` that a step makes, and there are no others: inside a cycle those of the table, outside a cycle
only a `READFRAME` request, which goes to `SeekingFrame` (43, the state transitions; log 8, log 9). -/
def Obligations.SequencingStateMovesOnlyByTable : Prop :=
  ∀ s t : State, step s = .next t →
    (s.caller.waiting = true ∧ s.st = .seekingFrame ∧
      (t.st = .readingChatter ∧ t.caller.waiting = true ∨
        t.st = .frameFound ∧ t.err = .none ∧ t.fvalid = true ∧ t.caller.waiting = false ∨
        t.st = .readError ∧ (t.err = .readError ∨ t.err = .incompleteFrame) ∧ t.fvalid = false ∧
          t.caller.waiting = false)) ∨
    (s.caller.waiting = true ∧ s.st = .readingChatter ∧
      (t.st = .seekingFrame ∧ t.caller.waiting = true ∨
        t.st = .readError ∧ t.err = .incompleteFrame ∧ t.fvalid = false ∧ t.caller.waiting = false)) ∨
    (¬ InCycle s ∧ t.st = .seekingFrame ∧ ∃ rest, s.caller.requests = ⟨10, .none⟩ :: rest) ∨
    (¬ InCycle s ∧ t.st = s.st)

/-- A `READFRAME` over any number of chatter frames and then a real frame: after the request, two steps for each chatter
frame and one for the real one, the buffer holds exactly the real frame, every chatter byte has been counted and skipped,
whatever the bodies hold, and the stream stands behind the frame (43, the chatter loop and the bytes consumed, the latter the
spec's own derivation; D7). -/
def Obligations.ReadFrameSkipsChatterAndFindsFrame : Prop :=
  ∀ (s : State) (rest : List Request) (chatter : List (Byte × List Byte)) (len : Byte) (body after : List Byte),
    Requested s ⟨10, .none⟩ rest → s.cfg.preRead = none → s.cfg.constants.hdrReal ≠ s.cfg.constants.hdrChat →
    (∀ c ∈ chatter, c.2.length ≤ 255) → body.length = len.toNat →
    StreamBegins s ((chatter.flatMap fun c => chatterFrame s.cfg.constants c.1 c.2) ++
      realFrame s.cfg.constants len body) after →
    ∃ t, Host.Core.run core (2 * chatter.length + 2) s = .next t ∧
      HoldsFrame t (realFrame s.cfg.constants len body) ∧ t.st = .frameFound ∧ t.err = .none ∧ t.caller.waiting = false ∧
      t.caller.requests = rest ∧ t.transport.rx = after ∧
      t.skipped = s.skipped +
        BitVec.ofNat 32 (chatter.flatMap fun c => chatterFrame s.cfg.constants c.1 c.2).length ∧
      t.transport.cursor = s.transport.cursor +
        ((chatter.flatMap fun c => chatterFrame s.cfg.constants c.1 c.2).length + (3 + len.toNat)) ∧
      t.res = s.res ∧ t.rcnt = s.rcnt ∧ t.rkind = s.rkind

/-- A `READFRAME` over a finite stream runs to its end and leaves what the whole cycle's pseudocode leaves: the frame or the
error kind with the offending bytes, the bytes not consumed, the growth of `SKIPPED`, the terminal state (43, the whole
cycle, the spec's own derivation; D28). -/
def Obligations.ReadFrameRefinesPseudocode : Prop :=
  ∀ (s : State) (requests : List Request), Requested s ⟨10, .none⟩ requests → s.cfg.preRead = none → FiniteStream s →
    ∀ e, e = cycleOver s.cfg.constants (s.transport.rx.length + 1) s.transport.rx 0 → ∃ k t,
      Host.Core.run core k s = .next t ∧ t.caller.waiting = false ∧ t.caller.requests = requests ∧
      t.err = e.err ∧ t.transport.rx = e.rest ∧
      t.transport.cursor + e.rest.length = s.transport.cursor + s.transport.rx.length ∧
      t.skipped = s.skipped + BitVec.ofNat 32 e.skipped ∧
      t.errN.toNat = e.offending.length ∧
      (∀ i b, e.offending[i]? = some b → errByteRead i t = .next b) ∧
      (∀ f, e.frame = some f → t.st = .frameFound ∧ HoldsFrame t f) ∧
      (e.frame = none → t.st = .readError ∧ t.fvalid = false ∧ t.flen = 0) ∧
      t.res = s.res ∧ t.rcnt = s.rcnt ∧ t.rkind = s.rkind

/-- A read cycle over a finite stream ends, from whichever step it stands at, within one step more than there are bytes (43,
the chatter loop). -/
def Obligations.FiniteStreamEndsCycle : Prop :=
  ∀ s : State, InCycle s → s.cfg.preRead = none → s.transport.again = [] →
    ∃ k t, k ≤ s.transport.rx.length + 1 ∧ Host.Core.run core k s = .next t ∧ t.caller.waiting = false ∧
      (t.st = .frameFound ∨ t.st = .readError)

/-- A device that sends chatter frames for ever keeps the cycle going for ever: there is no bound on the loop (43, the chatter
loop; the endless stream is log 3, DESIGN CHOICE). -/
def Obligations.EndlessChatterNeverEndsCycle : Prop :=
  ∀ (s : State) (instr : Byte) (body : List Byte), s.caller.waiting = true → s.st = .seekingFrame →
    s.cfg.preRead = none → body.length ≤ 255 → s.transport.rx = [] → s.transport.answers = [] →
    s.transport.again = chatterFrame s.cfg.constants instr body →
    ∀ k, ∃ t, Host.Core.run core (2 * k) s = .next t ∧ InCycle t ∧ t.st = .seekingFrame ∧ t.fvalid = s.fvalid ∧
      t.skipped = s.skipped + BitVec.ofNat 32 (k * (4 + body.length))

/-- Every byte consumed as chatter is counted and no other: step `CHAT` counts what it consumes, a header counts three or
nothing, and outside a read cycle nothing is counted or consumed (10, the counter; D7, log 18). -/
def Obligations.SkippedCountsChatterBytes : Prop :=
  ∀ s t : State, step s = .next t →
    (s.caller.waiting = true → s.st = .readingChatter →
      s.transport.cursor ≤ t.transport.cursor ∧
      t.skipped = s.skipped + BitVec.ofNat 32 (t.transport.cursor - s.transport.cursor)) ∧
    (s.caller.waiting = true → s.st = .seekingFrame →
      (t.st = .readingChatter → t.skipped = s.skipped + 3#32 ∧ t.transport.cursor = s.transport.cursor + 3) ∧
      (t.st ≠ .readingChatter → t.skipped = s.skipped)) ∧
    (¬ InCycle s → t.skipped = s.skipped ∧ t.transport = s.transport)

/-- The FrameReader is specified for `CFG.PRE_READ = None` alone: with another value `READFRAME`, its header rows and its
steps are refused (10, CFG.PRE_READ; decision D14, log 14). -/
def Obligations.OtherPreReadIsRefused : Prop :=
  ∀ (s : State) (p : Nat), s.cfg.preRead = some p →
    exec .readFrame s = .refused .preReadNotAdmitted ∧
    (∀ h : List Byte, exec (decodeHeader s.cfg.constants h) s = .refused .preReadNotAdmitted) ∧
    (InCycle s → step s = .refused .preReadNotAdmitted)

/-! ### The Decoder (44_decoder.md) -/

/-- `DECODE` without a frame: an empty result with `ERR = NoFrame` and `ERRN = 0`, nothing else changed (44, no frame:
decision D16). -/
def Obligations.DecodeWithoutFrameIsEmpty : Prop :=
  ∀ (s : State) (expected : Byte), s.fvalid = false →
    exec (.decode expected) s =
      .next { s with
        rcnt := 0, rkind := .empty, err := .noFrame, errN := 0
        caller := { s.caller with reply := .registers } }

/-- A frame for another command decodes to nothing, with `ERR = CommandMismatch`, before any test of its length, and is
discarded; nothing else changes (44, the command check; 60, the order of conditions). -/
def Obligations.DecodeMismatchIsEmpty : Prop :=
  ∀ (s : State) (expected len cmd : Byte) (payload : List Byte),
    HoldsFrame s (realFrame s.cfg.constants len (cmd :: payload)) → payload.length + 1 = len.toNat → cmd ≠ expected →
    exec (.decode expected) s =
      .next { s with
        rcnt := 0, rkind := .empty, err := .commandMismatch, errN := 0, fvalid := false
        caller := { s.caller with reply := .registers } }

/-- A frame of declared length 0, or of a declared length up to `LEN_OVERHEAD` (2 as printed) for the expected command, decodes
to nothing, with `ERR = ShortLength`, and is discarded; nothing else changes (44, the length test; 30, `bodyLength` over the
integers; D10, D11). -/
def Obligations.DecodeShortLengthIsEmpty : Prop :=
  ∀ (s : State) (expected len : Byte) (body : List Byte),
    HoldsFrame s (realFrame s.cfg.constants len body) → body.length = len.toNat →
    (len.toNat : Int) ≤ s.cfg.constants.lenOverhead → (∀ cmd ∈ body.head?, cmd = expected) →
    ∀ t, t = { s with
        rcnt := 0, rkind := .empty, err := .shortLength, errN := 0, fvalid := false
        caller := { s.caller with reply := .registers } } →
      exec (.decode expected) s = .next t ∧ exec (.decShort len body.head?) s = .next t

/-- R205. A payload of 12 or of 8 bytes, for any command, gives six or four signed 16-bit values, lane `k` from payload bytes
`2k` and `2k + 1` alone; `RCNT`, `RKIND`, `ERR`, `ERRN`, `FVALID` as the rule says; the registers beyond and everything else
unchanged. -/
def Obligations.ListRowsDecodeEveryLane : Prop :=
  ∀ (s : State) (cmd footer : Byte) (p : List Byte), s.cfg.constants = .printed →
    (p.length = 12 → HoldsFrame s (realFrame .printed 14 (cmd :: (p ++ [footer]))) →
      ∃ t, exec (.decList6 cmd) s = .next t ∧ exec (.decode cmd) s = .next t ∧
        (∀ k, k < 6 → resRead k t = .next (p.getD (2 * k) 0 ++ p.getD (2 * k + 1) 0)) ∧
        t = { s with
          res := t.res, rcnt := 6, rkind := .listS16, err := .none, errN := 0, fvalid := false
          caller := { s.caller with reply := .registers } }) ∧
    (p.length = 8 → HoldsFrame s (realFrame .printed 10 (cmd :: (p ++ [footer]))) →
      ∃ t, exec (.decList4 cmd) s = .next t ∧ exec (.decode cmd) s = .next t ∧
        (∀ k, k < 4 → resRead k t = .next (p.getD (2 * k) 0 ++ p.getD (2 * k + 1) 0)) ∧
        t.res.x4 = s.res.x4 ∧ t.res.x5 = s.res.x5 ∧
        t = { s with
          res := t.res, rcnt := 4, rkind := .listS16, err := .none, errN := 0, fvalid := false
          caller := { s.caller with reply := .registers } })

/-- R206. A payload of two bytes for any command but 0x50 gives one signed 16-bit value. -/
def Obligations.PairRowDecodesSigned16 : Prop :=
  ∀ (s : State) (cmd p0 p1 footer : Byte), s.cfg.constants = .printed → cmd ≠ 0x50 →
    HoldsFrame s (realFrame .printed 4 [cmd, p0, p1, footer]) →
    ∃ t, exec (.decS16 cmd) s = .next t ∧ exec (.decode cmd) s = .next t ∧
      resRead 0 t = .next (p0 ++ p1) ∧
      t = { s with
        res := { s.res with x0 := p0 ++ p1 }, rcnt := 1, rkind := .s16, err := .none, errN := 0, fvalid := false
        caller := { s.caller with reply := .registers } }

/-- R207. A payload of two bytes for command 0x50 gives the second byte as a signed 8-bit value, held sign-extended; the first
has no effect. -/
def Obligations.ServoRowDecodesSecondByte : Prop :=
  ∀ (s : State) (p0 p1 footer : Byte), s.cfg.constants = .printed →
    HoldsFrame s (realFrame .printed 4 [0x50, p0, p1, footer]) →
    ∃ t, exec .decS8Sec s = .next t ∧ exec (.decode 0x50) s = .next t ∧
      resRead 0 t = .next (p1.signExtend 16) ∧ -128 ≤ (p1.signExtend 16).toInt ∧ (p1.signExtend 16).toInt ≤ 127 ∧
      t = { s with
        res := { s.res with x0 := p1.signExtend 16 }, rcnt := 1, rkind := .s8, err := .none, errN := 0
        fvalid := false, caller := { s.caller with reply := .registers } }

/-- R208. A payload of one byte, for any command, gives one signed 8-bit value, held sign-extended. -/
def Obligations.ByteRowDecodesSigned8 : Prop :=
  ∀ (s : State) (cmd p0 footer : Byte), s.cfg.constants = .printed →
    HoldsFrame s (realFrame .printed 3 [cmd, p0, footer]) →
    ∃ t, exec (.decS8 cmd) s = .next t ∧ exec (.decode cmd) s = .next t ∧
      resRead 0 t = .next (p0.signExtend 16) ∧
      t = { s with
        res := { s.res with x0 := p0.signExtend 16 }, rcnt := 1, rkind := .s8, err := .none, errN := 0
        fvalid := false, caller := { s.caller with reply := .registers } }

/-- Every other body length follows the construction parameter: `FIRST_BYTE` gives the first payload byte, `EMPTY` an empty
result without an error; the frame is discarded either way (44, DEC.OTHER: decision D12, log 13; stated for both values). -/
def Obligations.OtherRowFollowsPolicy : Prop :=
  ∀ (s : State) (len cmd p0 : Byte) (others : List Byte),
    WellFormed s.cfg.constants (.decOther len cmd) = true →
    HoldsFrame s (realFrame s.cfg.constants len (cmd :: p0 :: others)) → others.length + 2 = len.toNat →
    (s.cfg.otherLen = .firstByte →
      ∀ t, t = { s with
          res := { s.res with x0 := p0.signExtend 16 }, rcnt := 1, rkind := .s8, err := .none, errN := 0
          fvalid := false, caller := { s.caller with reply := .registers } } →
        exec (.decOther len cmd) s = .next t ∧ exec (.decode cmd) s = .next t) ∧
    (s.cfg.otherLen = .empty →
      ∀ t, t = { s with
          rcnt := 0, rkind := .empty, err := .none, errN := 0, fvalid := false
          caller := { s.caller with reply := .registers } } →
        exec (.decOther len cmd) s = .next t ∧ exec (.decode cmd) s = .next t)

/-- Under the printed constants `DECODE` of any frame the buffer holds, for any expected command, ends with what the whole
operation's pseudocode gives for the frame's bytes, discards the frame and leaves everything else as it was (44, the whole
operation, the spec's own derivation; D10, D11, D12; the constants are log 11). -/
def Obligations.DecodeRefinesPseudocode : Prop :=
  ∀ (s : State) (expected len : Byte) (body : List Byte), s.cfg.constants = .printed →
    HoldsFrame s (realFrame .printed len body) → body.length = len.toNat →
    ∀ r, r = decodeOver s.cfg.otherLen expected (realFrame .printed len body) → ∃ t,
      exec (.decode expected) s = .next t ∧
      t.err = r.1 ∧ t.rkind = r.2.1 ∧ t.rcnt.toNat = r.2.2.length ∧
      (∀ k v, r.2.2[k]? = some v → resRead k t = .next (BitVec.ofInt 16 v)) ∧
      t = { s with
        res := t.res, rcnt := t.rcnt, rkind := t.rkind, err := t.err, errN := 0, fvalid := false
        caller := { s.caller with reply := .registers } }

/-- `unwrapSingle` hands back the first element of the result, or `UNWRAP_SENTINEL` (-1 as printed) for an empty one, and
changes no register (44, unwrapSingle; the width is decision D26). -/
def Obligations.UnwrapSingleGivesFirstOrSentinel : Prop :=
  ∀ s : State,
    (1 ≤ s.rcnt.toNat →
      exec .unwrapSingle s = .next { s with caller := { s.caller with reply := .integer s.res.x0.toInt } }) ∧
    (s.rcnt.toNat = 0 →
      exec .unwrapSingle s = .next { s with caller := { s.caller with reply := .integer s.cfg.constants.unwrapSentinel } })

/-! ### Encodings (30_encoding.md) -/

/-- For all 65,280 keys with a length byte other than 0, the decoder, which reads the constants, gives under the printed ones
the first row that matches the key under its mask in the table as printed, and that row is `DEC.SHORT` exactly where `L - 2` is
0 or less (30, the dispatch key, `bodyLength`; 44, the dispatch). -/
def Obligations.KeyMasksAgreeWithBodyLength : Prop :=
  ∀ len cmd : Byte, len ≠ 0 →
    decodeKey .printed [len, cmd] = .ok (ruleInstr len cmd (printedKeyRule (len ++ cmd))) ∧
    (printedKeyRule (len ++ cmd) = .short ↔ (len.toNat : Int) - 2 ≤ 0)

/-- Decoding the code of a well-formed instruction gives it back, for every row and every operand, under all constants that
keep the rows apart, the printed ones among them. -/
def Obligations.DecodeOfEncode : Prop :=
  ∀ (k : Constants) (i : Instr), Coherent k → WellFormed k i = true → decode k (encode k i) = .ok i

/-- Whatever the decoder answers is well formed, under all constants by which a frame without a command byte has no payload. -/
def Obligations.DecodedIsWellFormed : Prop :=
  ∀ (k : Constants) (c : Code) (i : Instr), 0 ≤ k.lenOverhead → decode k c = .ok i → WellFormed k i = true

/-- Words written out from the encoding tables decode, under the printed constants, to the instructions they stand for: both
markers and a mixed pair, one key of each row, the operation codes at both ends. That a word's width tells which encoding it
is, and that an operation's word has an operand of zeros, is the model's choice (DESIGN CHOICE: log 26). -/
def Obligations.WrittenWordsDecode : Prop :=
  decodeTableWord 24 0xFFFF01 = some (.hdrChatter 0x01) ∧ decodeTableWord 24 0xFEFE04 = some (.hdrFrame 0x04) ∧
  decodeTableWord 24 0xFEFF04 = some (.hdrDesync [0xFE, 0xFF, 0x04]) ∧
  decodeTableWord 16 0x0E20 = some (.decList6 0x20) ∧ decodeTableWord 16 0x0A35 = some (.decList4 0x35) ∧
  decodeTableWord 16 0x0450 = some .decS8Sec ∧
  decodeTableWord 16 0x0420 = some (.decS16 0x20) ∧ decodeTableWord 16 0x0350 = some (.decS8 0x50) ∧
  decodeTableWord 16 0x0000 = some (.decShort 0 none) ∧ decodeTableWord 16 0xFF21 = some (.decOther 0xFF 0x21) ∧
  decodeTableWord 8 0x0 = some (.encodeInt8 0) ∧ decodeTableWord 8 0xC = some .unwrapSingle ∧
  decodeTableWord 8 0xD = none

/-- Requests that are no instruction are refused by name and change nothing: operation codes 13 to 15, `decodeInt8`,
`decodeInt16` and `DECODE` of another number of bytes, and argument lists that R154 does not admit, in its own words: an item
that is a sequence containing a sequence, and an item of an inner list that is not an integer (30, 40, 42; decisions D2, D19,
D20; 93 U1, U9, U15; that an expected code is one byte is log 21, the refusals are log 20 and log 22; the token form is without
the outermost brackets, log 32). -/
def Obligations.InadmissibleRequestsAreRefused : Prop :=
  ∀ (s : State) (rest : List Request),
    (∀ (op : BitVec 4) (o : Operand), 13 ≤ op.toNat → Requested s ⟨op, o⟩ rest →
      step s = .refused (.notAnInstruction (.reservedOp op))) ∧
    (∀ (op : BitVec 4) (bs : List Byte), op = 2 ∨ op = 11 → bs.length ≠ 1 → Requested s ⟨op, .bytes bs⟩ rest →
      step s = .refused (.notAnInstruction (.operandPort op))) ∧
    (∀ bs : List Byte, bs.length ≠ 2 → Requested s ⟨3, .bytes bs⟩ rest →
      step s = .refused (.notAnInstruction (.operandPort 3))) ∧
    (∀ n inner deeper : Nested, .seq inner ∈ itemsOf n → .seq deeper ∈ itemsOf inner →
      Requested s ⟨9, .tokens (tokensOf n)⟩ rest → step s = .refused (.notAnInstruction .payloadShape)) ∧
    (∀ (n inner : Nested) (v : Rat), .seq inner ∈ itemsOf n → .scalar v ∈ itemsOf inner → v.den ≠ 1 →
      Requested s ⟨9, .tokens (tokensOf n)⟩ rest → step s = .refused (.notAnInstruction .payloadShape))

/-- A request with an operand of another kind than its operation's port is refused by name and changes nothing, for every
operation (30, operation select; the refusals are the model's, DESIGN CHOICE: log 20, log 21). -/
def Obligations.OtherOperandKindsAreRefused : Prop :=
  ∀ (s : State) (op : BitVec 4) (o : Operand) (rest : List Request), Requested s ⟨op, o⟩ rest →
    (op ∈ [0#4, 1#4, 6#4, 7#4] ∧ (∀ v, o ≠ .int v) ∨ op ∈ [2#4, 3#4, 11#4] ∧ (∀ bs, o ≠ .bytes bs) ∨
      op ∈ [4#4, 5#4] ∧ (∀ q, o ≠ .phys q) ∨ op ∈ [8#4, 9#4] ∧ (∀ ts, o ≠ .tokens ts) ∨
      op ∈ [10#4, 12#4] ∧ o ≠ .none) →
    step s = .refused (.notAnInstruction (.operandPort op))

/-- Token streams: a properly bracketed one is the tokens of a sequence, which `flatten` takes; every other one is refused by
name, for both operations that take tokens; and every sequence whose inner sequences hold integers alone is an argument list of
`buildCommandPayload` (42, the operand type, the shapes admitted: decision D19; log 20; that the stream lists the top-level
items without a pair of brackets around them is log 32, DESIGN CHOICE). -/
def Obligations.TokenStreamsSpellSequences : Prop :=
  (∀ ts : List Token, bracketed 0 ts = true →
    ∃ n, tokensOf n = ts ∧ decodeRequest ⟨8, .tokens ts⟩ = .ok (.flatten n)) ∧
  (∀ (s : State) (op : BitVec 4) (ts : List Token) (rest : List Request), op = 8 ∨ op = 9 → bracketed 0 ts = false →
    Requested s ⟨op, .tokens ts⟩ rest → step s = .refused (.notAnInstruction .tokenBrackets)) ∧
  (∀ n : Nested, (∀ inner, .seq inner ∈ itemsOf n → ∀ i ∈ itemsOf inner, ∃ v : Int, i = .scalar v) →
    ∃ args, nestedOfArgs args = n ∧ decodeRequest ⟨9, .tokens (tokensOf n)⟩ = .ok (.buildCommandPayload args))

/-! ### The whole machine -/

/-- After reset, over whatever transport: seeking, no frame, no error, no result, nothing skipped, no byte of the frame buffer
and no result register readable, and no read cycle in progress; and the parameters and constants of `State.reset` have the
values taken (10, reset values: decision D17; 00, the constants and parameters). -/
def Obligations.ResetLeavesNothing : Prop :=
  (∀ (cfg : Construction) (transport : Transport) (requests : List Request) (s : State),
    s = State.construct cfg transport requests →
    s.st = .seekingFrame ∧ s.fvalid = false ∧ s.flen = 0 ∧ s.err = .none ∧ s.errN = 0 ∧ s.rcnt = 0 ∧
    s.rkind = .empty ∧ s.skipped = 0 ∧ (∀ a, a < 258 → fbRead a s = .refused .noValue) ∧
    (∀ i, resRead i s = .refused .noValue) ∧ (∀ i, errByteRead i s = .refused .noValue) ∧ ¬ InCycle s) ∧
  State.reset = State.construct ⟨⟨0xFE, 0xFF, 0xFA, 0x20, 0x50, 2, 12, 8, 2, 100, 10, -1⟩, none, .firstByte, .toEven⟩
    .empty []

/-- Reset does not touch the transport: the unread bytes stand there afterwards, and they are what the header read of the first
`READFRAME` meets (70, reset; the list of requests is log 1, the step that starts the cycle log 9; the operation is over
`State.construct`, since a single `State.reset` must name one transport, log 28). -/
def Obligations.ResetLeavesTransport : Prop :=
  ∀ (cfg : Construction) (transport : Transport) (rest : List Request), cfg.preRead = none →
    (State.construct cfg transport (⟨10, .none⟩ :: rest)).transport = transport ∧
    ∃ t, step (State.construct cfg transport (⟨10, .none⟩ :: rest)) = .next t ∧ t.transport = transport ∧
      step t = exec (decodeHeader cfg.constants (rxTake 3 transport)) { t with transport := rxAdvance 3 transport }

/-- The state after reset is consistent, over whatever transport and with whatever configuration. -/
def Obligations.ResetIsConsistent : Prop :=
  ∀ (cfg : Construction) (transport : Transport) (requests : List Request),
    Consistent (State.construct cfg transport requests)

/-- Every step keeps the registers consistent: the frame buffer canonical and, while `FVALID = 1`, holding a whole real frame;
a cycle in progress only in its two states; offending bytes only with `ReadError`; `RCNT`, `RKIND` and `RES` agreeing. -/
def Obligations.StepKeepsConsistent : Prop :=
  ∀ s t : State, Consistent s → step s = .next t → Consistent t

/-- From a consistent state under `CFG.PRE_READ = None` and constants that keep the rows apart (the printed ones among them) a
step goes on, or refuses a request that is no instruction; it never faults and never meets a byte or register without a value
(60, errors are statuses and nothing is fatal). -/
def Obligations.ConsistentStateGoesOn : Prop :=
  ∀ s : State, Consistent s → Coherent s.cfg.constants → s.cfg.preRead = none → GoesOn (step s)

/-- No step writes the configuration or the outbound stream, the stream cursor never moves back, and bytes once consumed are
gone: what is left of a finite stream is a tail of what was left before (10, CFG and the stream cursor; 20, the byte
spaces). -/
def Obligations.StepKeepsConfigurationAndOutbound : Prop :=
  ∀ s t : State, step s = .next t →
    t.cfg = s.cfg ∧ t.transport.tx = s.transport.tx ∧ t.transport.again = s.transport.again ∧
    s.transport.cursor ≤ t.transport.cursor ∧
    (s.transport.again = [] → ∃ used, s.transport.rx = used ++ t.transport.rx ∧
      t.transport.cursor = s.transport.cursor + used.length)

/-- Which registers the operations outside the read cycle write, and no others: the decoding and scaling operations, `flatten`
and `unwrapSingle` write none; the encoders and `buildCommandPayload` write `ERR` (`None` or `RangeError`) and `ERRN`; `DECODE`
and its rows write the result, `ERR`, `ERRN` and clear `FVALID`, and no byte of the frame buffer (10, the table of writers,
the spec's own derivation). -/
def Obligations.OperationsWriteOnlyTheirRegisters : Prop :=
  ∀ (i : Instr) (s t : State), exec i s = .next t →
    match i with
    | .decodeInt8 _ | .decodeInt16 _ _ | .angleToInt _ | .coordToInt _ | .intToAngle _ | .intToCoord _ | .flatten _
    | .unwrapSingle =>
      t = { s with caller := { s.caller with reply := t.caller.reply } }
    | .encodeInt8 _ | .encodeInt16 _ | .buildCommandPayload _ =>
      (t.err = .none ∨ t.err = .rangeError) ∧
      t = { s with err := t.err, errN := 0, caller := { s.caller with reply := t.caller.reply } }
    | .decode _ | .decList6 _ | .decList4 _ | .decS8Sec | .decS16 _ | .decS8 _ | .decShort _ _ | .decOther _ _ =>
      t.fvalid = false ∧
      t = { s with
        res := t.res, rcnt := t.rcnt, rkind := t.rkind, err := t.err, errN := 0, fvalid := false
        caller := { s.caller with reply := .registers } }
    | .readFrame | .hdrChatter _ | .hdrFrame _ | .hdrDesync _ =>
      t.res = s.res ∧ t.rcnt = s.rcnt ∧ t.rkind = s.rkind ∧ t.cfg = s.cfg ∧ t.transport.tx = s.transport.tx ∧
      t.caller.requests = s.caller.requests
end

