-- ==== Sys2Proof/Laws/Memory.lean ====
section
/-! SUPPORT. The frame buffer's contents: a read after a write, and the canonical form, which every operation keeps. -/

namespace Sys2Proof.Laws

open Sys2Proof.Machine

theorem read_write_same (m : Memory) (a : Nat) (b : Byte) : (m.write a b).read a = some b := by
  induction m with
  | nil => simp [Memory.write, Memory.read]
  | cons c m ih =>
    obtain ⟨a', b'⟩ := c
    simp only [Memory.write]
    split
    · simp [Memory.read]
    · split
      · simp [Memory.read]
      · next h => simp [Memory.read, h, ih]

theorem read_write_other (m : Memory) {a a' : Nat} (b : Byte) (h : a ≠ a') : (m.write a' b).read a = m.read a := by
  induction m with
  | nil => simp [Memory.write, Memory.read, h]
  | cons c m ih =>
    obtain ⟨o, v⟩ := c
    simp only [Memory.write]
    split
    · simp [Memory.read, h]
    · split
      · next heq => simp [Memory.read, heq ▸ h, h]
      · simp only [Memory.read, ih]

theorem read_write (m : Memory) (a a' : Nat) (b : Byte) :
    (m.write a' b).read a = if a = a' then some b else m.read a := by
  split
  · next h => rw [h, read_write_same]
  · next h => rw [read_write_other _ _ h]

/-- Bytes stored at consecutive offsets: those offsets read as the bytes, every other one reads as before. -/
theorem read_writeBytes (m : Memory) (a : Nat) (bs : List Byte) (i : Nat) :
    (m.writeBytes a bs).read i = if a ≤ i ∧ i < a + bs.length then bs[i - a]? else m.read i := by
  induction bs generalizing m a with
  | nil =>
    have : ¬ (a ≤ i ∧ i < a + ([] : List Byte).length) := by simp
    rw [if_neg this, Memory.writeBytes]
  | cons b bs ih =>
    rw [Memory.writeBytes, ih, read_write]
    simp only [List.length_cons]
    by_cases h : i = a
    · subst h
      simp
    · by_cases h' : a + 1 ≤ i ∧ i < a + 1 + bs.length
      · have h2 : a ≤ i ∧ i < a + (bs.length + 1) := by omega
        have h3 : i - a = (i - (a + 1)) + 1 := by omega
        rw [if_pos h', if_pos h2, h3, List.getElem?_cons_succ]
      · have h2 : ¬ (a ≤ i ∧ i < a + (bs.length + 1)) := by omega
        rw [if_neg h', if_neg h2, if_neg h]

theorem wfFrom_write (m : Memory) (lo a : Nat) (b : Byte) (hlo : lo ≤ a) (ha : a < Config.fbMax)
    (h : Memory.wfFrom lo m = true) : Memory.wfFrom lo (m.write a b) = true := by
  induction m generalizing lo with
  | nil => simp [Memory.write, Memory.wfFrom, hlo, ha]
  | cons c m ih =>
    obtain ⟨o, v⟩ := c
    simp only [Memory.wfFrom, Bool.and_eq_true, decide_eq_true_eq] at h
    simp only [Memory.write]
    split
    · next hlt => simp [Memory.wfFrom, hlo, ha, h, Nat.succ_le_of_lt hlt]
    · split
      · next heq => subst heq; simp [Memory.wfFrom, h]
      · next hge hne => simp [Memory.wfFrom, h, ih (o + 1) (by omega) h.2]

/-- A write inside the frame buffer keeps the canonical form. -/
theorem wf_write (m : Memory) (a : Nat) (b : Byte) (ha : a < Config.fbMax) (h : m.wf = true) :
    (m.write a b).wf = true := wfFrom_write m 0 a b (Nat.zero_le _) ha h

/-- Writes inside the frame buffer keep the canonical form. -/
theorem wf_writeBytes (m : Memory) (a : Nat) (bs : List Byte) (ha : a + bs.length ≤ Config.fbMax)
    (h : m.wf = true) : (m.writeBytes a bs).wf = true := by
  induction bs generalizing m a with
  | nil => exact h
  | cons b bs ih =>
    simp only [List.length_cons] at ha
    exact ih _ _ (by omega) (wf_write m a b (by omega) h)

theorem wf_reset : Memory.wf State.reset.fb = true := rfl

/-- Dropping the frame leaves the canonical form of an empty buffer. -/
theorem wf_dropFrame (s : State) : Memory.wf (dropFrame s).fb = true := rfl

/-- `MemWrite` keeps the canonical form. -/
theorem wf_memWrite {a : Nat} {bs : List Byte} {s t : State} (h : memWrite a bs s = .next t)
    (hs : Memory.wf s.fb = true) : Memory.wf t.fb = true := by
  unfold memWrite at h
  split at h
  · cases h
  · next hle => cases h; exact wf_writeBytes _ _ _ (by omega) hs

end Sys2Proof.Laws
end

