-- ==== Sys2Proof/Laws/State.lean ====
section
/-! SUPPORT. What each named update of the state does to each field: one lemma per field per update, true by definition,
so that no later proof unfolds a record update. -/

namespace Sys2Proof.Laws

open Sys2Proof.Machine

/-! ### `dropFrame` -/

@[simp] theorem dropFrame_cfg (s : State) : (dropFrame s).cfg = s.cfg := rfl
@[simp] theorem dropFrame_st (s : State) : (dropFrame s).st = s.st := rfl
@[simp] theorem dropFrame_fb (s : State) : (dropFrame s).fb = [] := rfl
@[simp] theorem dropFrame_flen (s : State) : (dropFrame s).flen = 0 := rfl
@[simp] theorem dropFrame_fvalid (s : State) : (dropFrame s).fvalid = false := rfl
@[simp] theorem dropFrame_err (s : State) : (dropFrame s).err = s.err := rfl
@[simp] theorem dropFrame_errBytes (s : State) : (dropFrame s).errBytes = s.errBytes := rfl
@[simp] theorem dropFrame_errN (s : State) : (dropFrame s).errN = s.errN := rfl
@[simp] theorem dropFrame_res (s : State) : (dropFrame s).res = s.res := rfl
@[simp] theorem dropFrame_rcnt (s : State) : (dropFrame s).rcnt = s.rcnt := rfl
@[simp] theorem dropFrame_rkind (s : State) : (dropFrame s).rkind = s.rkind := rfl
@[simp] theorem dropFrame_skipped (s : State) : (dropFrame s).skipped = s.skipped := rfl
@[simp] theorem dropFrame_transport (s : State) : (dropFrame s).transport = s.transport := rfl
@[simp] theorem dropFrame_caller (s : State) : (dropFrame s).caller = s.caller := rfl

/-! ### `setReply` -/

@[simp] theorem setReply_cfg (s : State) (r : Reply) : (setReply r s).cfg = s.cfg := rfl
@[simp] theorem setReply_st (s : State) (r : Reply) : (setReply r s).st = s.st := rfl
@[simp] theorem setReply_fb (s : State) (r : Reply) : (setReply r s).fb = s.fb := rfl
@[simp] theorem setReply_flen (s : State) (r : Reply) : (setReply r s).flen = s.flen := rfl
@[simp] theorem setReply_fvalid (s : State) (r : Reply) : (setReply r s).fvalid = s.fvalid := rfl
@[simp] theorem setReply_err (s : State) (r : Reply) : (setReply r s).err = s.err := rfl
@[simp] theorem setReply_errBytes (s : State) (r : Reply) : (setReply r s).errBytes = s.errBytes := rfl
@[simp] theorem setReply_errN (s : State) (r : Reply) : (setReply r s).errN = s.errN := rfl
@[simp] theorem setReply_res (s : State) (r : Reply) : (setReply r s).res = s.res := rfl
@[simp] theorem setReply_rcnt (s : State) (r : Reply) : (setReply r s).rcnt = s.rcnt := rfl
@[simp] theorem setReply_rkind (s : State) (r : Reply) : (setReply r s).rkind = s.rkind := rfl
@[simp] theorem setReply_skipped (s : State) (r : Reply) : (setReply r s).skipped = s.skipped := rfl
@[simp] theorem setReply_transport (s : State) (r : Reply) : (setReply r s).transport = s.transport := rfl
@[simp] theorem setReply_caller (s : State) (r : Reply) : (setReply r s).caller = { s.caller with reply := r } := rfl

/-! ### `clearError` -/

@[simp] theorem clearError_cfg (s : State) : (clearError s).cfg = s.cfg := rfl
@[simp] theorem clearError_st (s : State) : (clearError s).st = s.st := rfl
@[simp] theorem clearError_fb (s : State) : (clearError s).fb = s.fb := rfl
@[simp] theorem clearError_flen (s : State) : (clearError s).flen = s.flen := rfl
@[simp] theorem clearError_fvalid (s : State) : (clearError s).fvalid = s.fvalid := rfl
@[simp] theorem clearError_err (s : State) : (clearError s).err = .none := rfl
@[simp] theorem clearError_errBytes (s : State) : (clearError s).errBytes = s.errBytes := rfl
@[simp] theorem clearError_errN (s : State) : (clearError s).errN = 0 := rfl
@[simp] theorem clearError_res (s : State) : (clearError s).res = s.res := rfl
@[simp] theorem clearError_rcnt (s : State) : (clearError s).rcnt = s.rcnt := rfl
@[simp] theorem clearError_rkind (s : State) : (clearError s).rkind = s.rkind := rfl
@[simp] theorem clearError_skipped (s : State) : (clearError s).skipped = s.skipped := rfl
@[simp] theorem clearError_transport (s : State) : (clearError s).transport = s.transport := rfl
@[simp] theorem clearError_caller (s : State) : (clearError s).caller = s.caller := rfl

/-! ### `raise` -/

@[simp] theorem raise_cfg (s : State) (k : ErrKind) (r : Reply) : (raise k r s).cfg = s.cfg := rfl
@[simp] theorem raise_st (s : State) (k : ErrKind) (r : Reply) : (raise k r s).st = s.st := rfl
@[simp] theorem raise_fb (s : State) (k : ErrKind) (r : Reply) : (raise k r s).fb = s.fb := rfl
@[simp] theorem raise_flen (s : State) (k : ErrKind) (r : Reply) : (raise k r s).flen = s.flen := rfl
@[simp] theorem raise_fvalid (s : State) (k : ErrKind) (r : Reply) : (raise k r s).fvalid = s.fvalid := rfl
@[simp] theorem raise_err (s : State) (k : ErrKind) (r : Reply) : (raise k r s).err = k := rfl
@[simp] theorem raise_errBytes (s : State) (k : ErrKind) (r : Reply) : (raise k r s).errBytes = s.errBytes := rfl
@[simp] theorem raise_errN (s : State) (k : ErrKind) (r : Reply) : (raise k r s).errN = 0 := rfl
@[simp] theorem raise_res (s : State) (k : ErrKind) (r : Reply) : (raise k r s).res = s.res := rfl
@[simp] theorem raise_rcnt (s : State) (k : ErrKind) (r : Reply) : (raise k r s).rcnt = s.rcnt := rfl
@[simp] theorem raise_rkind (s : State) (k : ErrKind) (r : Reply) : (raise k r s).rkind = s.rkind := rfl
@[simp] theorem raise_skipped (s : State) (k : ErrKind) (r : Reply) : (raise k r s).skipped = s.skipped := rfl
@[simp] theorem raise_transport (s : State) (k : ErrKind) (r : Reply) : (raise k r s).transport = s.transport := rfl
@[simp] theorem raise_caller (s : State) (k : ErrKind) (r : Reply) : (raise k r s).caller = { s.caller with reply := r } := rfl

/-! ### `setSeq` -/

@[simp] theorem setSeq_cfg (s : State) (q : SeqState) : (setSeq q s).cfg = s.cfg := rfl
@[simp] theorem setSeq_st (s : State) (q : SeqState) : (setSeq q s).st = q := rfl
@[simp] theorem setSeq_fb (s : State) (q : SeqState) : (setSeq q s).fb = s.fb := rfl
@[simp] theorem setSeq_flen (s : State) (q : SeqState) : (setSeq q s).flen = s.flen := rfl
@[simp] theorem setSeq_fvalid (s : State) (q : SeqState) : (setSeq q s).fvalid = s.fvalid := rfl
@[simp] theorem setSeq_err (s : State) (q : SeqState) : (setSeq q s).err = s.err := rfl
@[simp] theorem setSeq_errBytes (s : State) (q : SeqState) : (setSeq q s).errBytes = s.errBytes := rfl
@[simp] theorem setSeq_errN (s : State) (q : SeqState) : (setSeq q s).errN = s.errN := rfl
@[simp] theorem setSeq_res (s : State) (q : SeqState) : (setSeq q s).res = s.res := rfl
@[simp] theorem setSeq_rcnt (s : State) (q : SeqState) : (setSeq q s).rcnt = s.rcnt := rfl
@[simp] theorem setSeq_rkind (s : State) (q : SeqState) : (setSeq q s).rkind = s.rkind := rfl
@[simp] theorem setSeq_skipped (s : State) (q : SeqState) : (setSeq q s).skipped = s.skipped := rfl
@[simp] theorem setSeq_transport (s : State) (q : SeqState) : (setSeq q s).transport = s.transport := rfl
@[simp] theorem setSeq_caller (s : State) (q : SeqState) : (setSeq q s).caller = s.caller := rfl

/-! ### `endCycle` -/

@[simp] theorem endCycle_cfg (s : State) (q : SeqState) : (endCycle q s).cfg = s.cfg := rfl
@[simp] theorem endCycle_st (s : State) (q : SeqState) : (endCycle q s).st = q := rfl
@[simp] theorem endCycle_fb (s : State) (q : SeqState) : (endCycle q s).fb = s.fb := rfl
@[simp] theorem endCycle_flen (s : State) (q : SeqState) : (endCycle q s).flen = s.flen := rfl
@[simp] theorem endCycle_fvalid (s : State) (q : SeqState) : (endCycle q s).fvalid = s.fvalid := rfl
@[simp] theorem endCycle_err (s : State) (q : SeqState) : (endCycle q s).err = s.err := rfl
@[simp] theorem endCycle_errBytes (s : State) (q : SeqState) : (endCycle q s).errBytes = s.errBytes := rfl
@[simp] theorem endCycle_errN (s : State) (q : SeqState) : (endCycle q s).errN = s.errN := rfl
@[simp] theorem endCycle_res (s : State) (q : SeqState) : (endCycle q s).res = s.res := rfl
@[simp] theorem endCycle_rcnt (s : State) (q : SeqState) : (endCycle q s).rcnt = s.rcnt := rfl
@[simp] theorem endCycle_rkind (s : State) (q : SeqState) : (endCycle q s).rkind = s.rkind := rfl
@[simp] theorem endCycle_skipped (s : State) (q : SeqState) : (endCycle q s).skipped = s.skipped := rfl
@[simp] theorem endCycle_transport (s : State) (q : SeqState) : (endCycle q s).transport = s.transport := rfl
@[simp] theorem endCycle_caller (s : State) (q : SeqState) : (endCycle q s).caller = { s.caller with waiting := false, reply := .registers } := rfl

/-! ### `failIncomplete` -/

@[simp] theorem failIncomplete_cfg (s : State) : (failIncomplete s).cfg = s.cfg := rfl
@[simp] theorem failIncomplete_st (s : State) : (failIncomplete s).st = .readError := rfl
@[simp] theorem failIncomplete_fb (s : State) : (failIncomplete s).fb = [] := rfl
@[simp] theorem failIncomplete_flen (s : State) : (failIncomplete s).flen = 0 := rfl
@[simp] theorem failIncomplete_fvalid (s : State) : (failIncomplete s).fvalid = false := rfl
@[simp] theorem failIncomplete_err (s : State) : (failIncomplete s).err = .incompleteFrame := rfl
@[simp] theorem failIncomplete_errBytes (s : State) : (failIncomplete s).errBytes = s.errBytes := rfl
@[simp] theorem failIncomplete_errN (s : State) : (failIncomplete s).errN = 0 := rfl
@[simp] theorem failIncomplete_res (s : State) : (failIncomplete s).res = s.res := rfl
@[simp] theorem failIncomplete_rcnt (s : State) : (failIncomplete s).rcnt = s.rcnt := rfl
@[simp] theorem failIncomplete_rkind (s : State) : (failIncomplete s).rkind = s.rkind := rfl
@[simp] theorem failIncomplete_skipped (s : State) : (failIncomplete s).skipped = s.skipped := rfl
@[simp] theorem failIncomplete_transport (s : State) : (failIncomplete s).transport = s.transport := rfl
@[simp] theorem failIncomplete_caller (s : State) : (failIncomplete s).caller = { s.caller with waiting := false, reply := .registers } := rfl

/-! ### `failDesync` -/

@[simp] theorem failDesync_cfg (s : State) (h : List Byte) : (failDesync h s).cfg = s.cfg := rfl
@[simp] theorem failDesync_st (s : State) (h : List Byte) : (failDesync h s).st = .readError := rfl
@[simp] theorem failDesync_fb (s : State) (h : List Byte) : (failDesync h s).fb = [] := rfl
@[simp] theorem failDesync_flen (s : State) (h : List Byte) : (failDesync h s).flen = 0 := rfl
@[simp] theorem failDesync_fvalid (s : State) (h : List Byte) : (failDesync h s).fvalid = false := rfl
@[simp] theorem failDesync_err (s : State) (h : List Byte) : (failDesync h s).err = .readError := rfl
@[simp] theorem failDesync_errBytes (s : State) (h : List Byte) : (failDesync h s).errBytes = s.errBytes.store h := rfl
@[simp] theorem failDesync_errN (s : State) (h : List Byte) : (failDesync h s).errN = BitVec.ofNat 2 h.length := rfl
@[simp] theorem failDesync_res (s : State) (h : List Byte) : (failDesync h s).res = s.res := rfl
@[simp] theorem failDesync_rcnt (s : State) (h : List Byte) : (failDesync h s).rcnt = s.rcnt := rfl
@[simp] theorem failDesync_rkind (s : State) (h : List Byte) : (failDesync h s).rkind = s.rkind := rfl
@[simp] theorem failDesync_skipped (s : State) (h : List Byte) : (failDesync h s).skipped = s.skipped := rfl
@[simp] theorem failDesync_transport (s : State) (h : List Byte) : (failDesync h s).transport = s.transport := rfl
@[simp] theorem failDesync_caller (s : State) (h : List Byte) : (failDesync h s).caller = { s.caller with waiting := false, reply := .registers } := rfl

/-! ### `emptyResult` -/

@[simp] theorem emptyResult_cfg (s : State) (k : ErrKind) : (emptyResult k s).cfg = s.cfg := rfl
@[simp] theorem emptyResult_st (s : State) (k : ErrKind) : (emptyResult k s).st = s.st := rfl
@[simp] theorem emptyResult_fb (s : State) (k : ErrKind) : (emptyResult k s).fb = s.fb := rfl
@[simp] theorem emptyResult_flen (s : State) (k : ErrKind) : (emptyResult k s).flen = s.flen := rfl
@[simp] theorem emptyResult_fvalid (s : State) (k : ErrKind) : (emptyResult k s).fvalid = false := rfl
@[simp] theorem emptyResult_err (s : State) (k : ErrKind) : (emptyResult k s).err = k := rfl
@[simp] theorem emptyResult_errBytes (s : State) (k : ErrKind) : (emptyResult k s).errBytes = s.errBytes := rfl
@[simp] theorem emptyResult_errN (s : State) (k : ErrKind) : (emptyResult k s).errN = 0 := rfl
@[simp] theorem emptyResult_res (s : State) (k : ErrKind) : (emptyResult k s).res = s.res := rfl
@[simp] theorem emptyResult_rcnt (s : State) (k : ErrKind) : (emptyResult k s).rcnt = 0 := rfl
@[simp] theorem emptyResult_rkind (s : State) (k : ErrKind) : (emptyResult k s).rkind = .empty := rfl
@[simp] theorem emptyResult_skipped (s : State) (k : ErrKind) : (emptyResult k s).skipped = s.skipped := rfl
@[simp] theorem emptyResult_transport (s : State) (k : ErrKind) : (emptyResult k s).transport = s.transport := rfl
@[simp] theorem emptyResult_caller (s : State) (k : ErrKind) : (emptyResult k s).caller = { s.caller with reply := .registers } := rfl

/-! ### `deliver` -/

@[simp] theorem deliver_cfg (s : State) (vs : List Int) (k : ResultKind) : (deliver vs k s).cfg = s.cfg := rfl
@[simp] theorem deliver_st (s : State) (vs : List Int) (k : ResultKind) : (deliver vs k s).st = s.st := rfl
@[simp] theorem deliver_fb (s : State) (vs : List Int) (k : ResultKind) : (deliver vs k s).fb = s.fb := rfl
@[simp] theorem deliver_flen (s : State) (vs : List Int) (k : ResultKind) : (deliver vs k s).flen = s.flen := rfl
@[simp] theorem deliver_fvalid (s : State) (vs : List Int) (k : ResultKind) : (deliver vs k s).fvalid = false := rfl
@[simp] theorem deliver_err (s : State) (vs : List Int) (k : ResultKind) : (deliver vs k s).err = .none := rfl
@[simp] theorem deliver_errBytes (s : State) (vs : List Int) (k : ResultKind) : (deliver vs k s).errBytes = s.errBytes := rfl
@[simp] theorem deliver_errN (s : State) (vs : List Int) (k : ResultKind) : (deliver vs k s).errN = 0 := rfl
@[simp] theorem deliver_res (s : State) (vs : List Int) (k : ResultKind) : (deliver vs k s).res = s.res.write 0 vs := rfl
@[simp] theorem deliver_rcnt (s : State) (vs : List Int) (k : ResultKind) : (deliver vs k s).rcnt = BitVec.ofNat 3 vs.length := rfl
@[simp] theorem deliver_rkind (s : State) (vs : List Int) (k : ResultKind) : (deliver vs k s).rkind = k := rfl
@[simp] theorem deliver_skipped (s : State) (vs : List Int) (k : ResultKind) : (deliver vs k s).skipped = s.skipped := rfl
@[simp] theorem deliver_transport (s : State) (vs : List Int) (k : ResultKind) : (deliver vs k s).transport = s.transport := rfl
@[simp] theorem deliver_caller (s : State) (vs : List Int) (k : ResultKind) : (deliver vs k s).caller = { s.caller with reply := .registers } := rfl

/-! ### `countSkipped` -/

@[simp] theorem countSkipped_cfg (s : State) (n : Nat) : (countSkipped n s).cfg = s.cfg := rfl
@[simp] theorem countSkipped_st (s : State) (n : Nat) : (countSkipped n s).st = s.st := rfl
@[simp] theorem countSkipped_fb (s : State) (n : Nat) : (countSkipped n s).fb = s.fb := rfl
@[simp] theorem countSkipped_flen (s : State) (n : Nat) : (countSkipped n s).flen = s.flen := rfl
@[simp] theorem countSkipped_fvalid (s : State) (n : Nat) : (countSkipped n s).fvalid = s.fvalid := rfl
@[simp] theorem countSkipped_err (s : State) (n : Nat) : (countSkipped n s).err = s.err := rfl
@[simp] theorem countSkipped_errBytes (s : State) (n : Nat) : (countSkipped n s).errBytes = s.errBytes := rfl
@[simp] theorem countSkipped_errN (s : State) (n : Nat) : (countSkipped n s).errN = s.errN := rfl
@[simp] theorem countSkipped_res (s : State) (n : Nat) : (countSkipped n s).res = s.res := rfl
@[simp] theorem countSkipped_rcnt (s : State) (n : Nat) : (countSkipped n s).rcnt = s.rcnt := rfl
@[simp] theorem countSkipped_rkind (s : State) (n : Nat) : (countSkipped n s).rkind = s.rkind := rfl
@[simp] theorem countSkipped_skipped (s : State) (n : Nat) : (countSkipped n s).skipped = s.skipped + BitVec.ofNat Config.skipW n := rfl
@[simp] theorem countSkipped_transport (s : State) (n : Nat) : (countSkipped n s).transport = s.transport := rfl
@[simp] theorem countSkipped_caller (s : State) (n : Nat) : (countSkipped n s).caller = s.caller := rfl

/-! ### `startCycle` -/

@[simp] theorem startCycle_cfg (s : State) : (startCycle s).cfg = s.cfg := rfl
@[simp] theorem startCycle_st (s : State) : (startCycle s).st = .seekingFrame := rfl
@[simp] theorem startCycle_fb (s : State) : (startCycle s).fb = [] := rfl
@[simp] theorem startCycle_flen (s : State) : (startCycle s).flen = 0 := rfl
@[simp] theorem startCycle_fvalid (s : State) : (startCycle s).fvalid = false := rfl
@[simp] theorem startCycle_err (s : State) : (startCycle s).err = .none := rfl
@[simp] theorem startCycle_errBytes (s : State) : (startCycle s).errBytes = s.errBytes := rfl
@[simp] theorem startCycle_errN (s : State) : (startCycle s).errN = 0 := rfl
@[simp] theorem startCycle_res (s : State) : (startCycle s).res = s.res := rfl
@[simp] theorem startCycle_rcnt (s : State) : (startCycle s).rcnt = s.rcnt := rfl
@[simp] theorem startCycle_rkind (s : State) : (startCycle s).rkind = s.rkind := rfl
@[simp] theorem startCycle_skipped (s : State) : (startCycle s).skipped = s.skipped := rfl
@[simp] theorem startCycle_transport (s : State) : (startCycle s).transport = s.transport := rfl
@[simp] theorem startCycle_caller (s : State) : (startCycle s).caller = { s.caller with waiting := true, reply := .nothing } := rfl

/-! ### `rxRead` -/

@[simp] theorem rxRead_cfg (s : State) (n : Nat) : (rxRead n s).2.cfg = s.cfg := rfl
@[simp] theorem rxRead_st (s : State) (n : Nat) : (rxRead n s).2.st = s.st := rfl
@[simp] theorem rxRead_fb (s : State) (n : Nat) : (rxRead n s).2.fb = s.fb := rfl
@[simp] theorem rxRead_flen (s : State) (n : Nat) : (rxRead n s).2.flen = s.flen := rfl
@[simp] theorem rxRead_fvalid (s : State) (n : Nat) : (rxRead n s).2.fvalid = s.fvalid := rfl
@[simp] theorem rxRead_err (s : State) (n : Nat) : (rxRead n s).2.err = s.err := rfl
@[simp] theorem rxRead_errBytes (s : State) (n : Nat) : (rxRead n s).2.errBytes = s.errBytes := rfl
@[simp] theorem rxRead_errN (s : State) (n : Nat) : (rxRead n s).2.errN = s.errN := rfl
@[simp] theorem rxRead_res (s : State) (n : Nat) : (rxRead n s).2.res = s.res := rfl
@[simp] theorem rxRead_rcnt (s : State) (n : Nat) : (rxRead n s).2.rcnt = s.rcnt := rfl
@[simp] theorem rxRead_rkind (s : State) (n : Nat) : (rxRead n s).2.rkind = s.rkind := rfl
@[simp] theorem rxRead_skipped (s : State) (n : Nat) : (rxRead n s).2.skipped = s.skipped := rfl
@[simp] theorem rxRead_transport (s : State) (n : Nat) : (rxRead n s).2.transport = rxAdvance n s.transport := rfl
@[simp] theorem rxRead_caller (s : State) (n : Nat) : (rxRead n s).2.caller = s.caller := rfl

end Sys2Proof.Laws
end

