-- ==== Sys2Proof/Laws/Ops.lean ====
section
/-! SUPPORT. What each shared operation can do, said once: the lemmas that later proofs cite in place of unfolding it. -/

namespace Sys2Proof.Laws

open Sys2Proof.Machine

/-! ### Sequencing -/

@[simp] theorem andThen_next {α β : Type} (a : α) (f : α → Result β) : andThen (.next a) f = f a := rfl
@[simp] theorem andThen_fault {α β : Type} (r : Fault) (f : α → Result β) : andThen (.fault r) f = .fault r := rfl
@[simp] theorem andThen_refused {α β : Type} (r : Refusal) (f : α → Result β) : andThen (.refused r) f = .refused r := rfl

/-- A sequence answers only when its first part does. -/
theorem andThen_eq_next {α β : Type} {o : Result α} {f : α → Result β} {b : β} (h : andThen o f = .next b) :
    ∃ a, o = .next a ∧ f a = .next b := by
  cases o with
  | next a => exact ⟨a, rfl, h⟩
  | fault r => cases h
  | refused r => cases h

/-! ### The frame buffer -/

/-- A read of a byte that has a value. -/
theorem fbRead_of_read {a : Nat} {s : State} {b : Byte} (hv : s.fvalid = true) (hl : a < s.flen.toNat)
    (ha : a < Config.fbMax) (hb : s.fb.read a = some b) : fbRead a s = .next b := by
  simp [fbRead, hv, hl, hb, Nat.not_le.mpr ha]

/-- A read of the frame buffer answers only with a byte that has a value. -/
theorem fbRead_eq_next {a : Nat} {s : State} {b : Byte} (h : fbRead a s = .next b) :
    a < Config.fbMax ∧ s.fvalid = true ∧ a < s.flen.toNat ∧ s.fb.read a = some b := by
  unfold fbRead at h
  split at h
  · cases h
  · next hlt =>
    split at h
    · next hv =>
      split at h
      · next heq => cases h; exact ⟨by omega, hv.1, hv.2, heq⟩
      · cases h
    · cases h

/-- A read of the frame buffer depends on `FVALID`, `FLEN` and `FB` alone. -/
theorem fbRead_congr {a : Nat} {s t : State} (hb : t.fb = s.fb) (hl : t.flen = s.flen) (hv : t.fvalid = s.fvalid) :
    fbRead a t = fbRead a s := by
  simp [fbRead, hb, hl, hv]

/-- While `FVALID = 0` no byte of the frame buffer has a value. -/
theorem fbRead_invalid {a : Nat} {s : State} (ha : a < Config.fbMax) (hv : s.fvalid = false) :
    fbRead a s = .refused .noValue := by
  simp [fbRead, hv, Nat.not_le.mpr ha]

theorem memWrite_inside {a : Nat} {bs : List Byte} (s : State) (h : a + bs.length ≤ Config.fbMax) :
    memWrite a bs s = .next { s with fb := s.fb.writeBytes a bs } := by
  simp [memWrite, Nat.not_lt.mpr h]

/-- `MemWrite` changes the frame buffer and nothing else. -/
theorem memWrite_eq_next {a : Nat} {bs : List Byte} {s t : State} (h : memWrite a bs s = .next t) :
    a + bs.length ≤ Config.fbMax ∧ t = { s with fb := s.fb.writeBytes a bs } := by
  unfold memWrite at h
  split at h
  · cases h
  · next hle => cases h; exact ⟨by omega, rfl⟩

/-! ### Registers -/

/-- A read of a result register answers only below `RCNT`. -/
theorem resRead_eq_next {i : Nat} {s : State} {v : Word16} (h : resRead i s = .next v) :
    i < s.rcnt.toNat ∧ s.res.get i = some v := by
  unfold resRead at h
  split at h
  · next hlt =>
    split at h
    · next heq => cases h; exact ⟨hlt, heq⟩
    · cases h
  · cases h

theorem resRead_zero {s : State} (h : 0 < s.rcnt.toNat) : resRead 0 s = .next s.res.x0 := by
  simp [resRead, h, Results.get]

/-- A register that has been set reads as the value; every other one reads as before. -/
theorem results_get_set (r : Results) (i j : Nat) (v : Word16) (hi : i < 6) :
    (r.set i v).get j = if j = i then some v else r.get j := by
  have : i = 0 ∨ i = 1 ∨ i = 2 ∨ i = 3 ∨ i = 4 ∨ i = 5 := by omega
  rcases this with rfl | rfl | rfl | rfl | rfl | rfl <;> (split <;> rename_i h)
  all_goals first
    | (subst h; rfl)
    | (match j with
       | 0 => simp_all [Results.get, Results.set]
       | 1 => simp_all [Results.get, Results.set]
       | 2 => simp_all [Results.get, Results.set]
       | 3 => simp_all [Results.get, Results.set]
       | 4 => simp_all [Results.get, Results.set]
       | 5 => simp_all [Results.get, Results.set]
       | _ + 6 => rfl)

/-! ### The inbound stream -/

/-- A read returns at most what was asked for (20_memory.md R51). -/
theorem rxTake_length_le (n : Nat) (t : Transport) : (rxTake n t).length ≤ n := by
  simp only [rxTake, rxLimit, List.length_take]
  omega

/-- A read consumes exactly what it returns, in order (R51). -/
theorem rxTake_append_rest (n : Nat) (t : Transport) : rxTake n t ++ (rxAdvance n t).rx = rxAvailable n t :=
  List.take_append_drop _ _

/-- Enough listed bytes, and a transport that hands back all it is asked for. -/
theorem rxTake_full {n : Nat} {t : Transport} {bs rest : List Byte} (hrx : t.rx = bs ++ rest) (hn : bs.length = n)
    (ha : n ≤ t.answers.headD n) :
    rxTake n t = bs ∧
      rxAdvance n t = { t with rx := rest, answers := t.answers.tail, cursor := t.cursor + n } := by
  have hav : rxAvailable n t = bs ++ rest := by
    simp only [rxAvailable, hrx, List.length_append]
    rw [if_neg (by omega)]
  have hl : rxLimit n t = bs.length := by simp only [rxLimit]; omega
  have ht : rxTake n t = bs := by simp [rxTake, hav, hl]
  refine ⟨ht, ?_⟩
  simp only [rxAdvance, ht, hav, hl, List.drop_left', hn]

/-- Too few listed bytes and a stream that ends: all of them are returned and nothing is left. -/
theorem rxTake_short {n : Nat} {t : Transport} (hg : t.again = []) (hn : t.rx.length < n)
    (ha : t.rx.length ≤ t.answers.headD n) :
    rxTake n t = t.rx ∧
      rxAdvance n t = { t with rx := [], answers := t.answers.tail, cursor := t.cursor + t.rx.length } := by
  have hav : rxAvailable n t = t.rx := by simp [rxAvailable, hg]
  have hl : t.rx.length ≤ rxLimit n t := by simp only [rxLimit]; omega
  have ht : rxTake n t = t.rx := by simp [rxTake, hav, List.take_of_length_le hl]
  refine ⟨ht, ?_⟩
  simp only [rxAdvance, ht, hav, List.drop_of_length_le hl]

@[simp] theorem rxRead_fst (n : Nat) (s : State) : (rxRead n s).1 = rxTake n s.transport := rfl

@[simp] theorem rxReadCounted_zero (s : State) : rxReadCounted 0 s = ([], s) := rfl

theorem rxReadCounted_pos {n : Nat} (h : n ≠ 0) (s : State) : rxReadCounted n s = rxRead n s := by
  simp [rxReadCounted, h]

/-- A counted read changes the transport and nothing else. -/
theorem rxReadCounted_snd (n : Nat) (s : State) :
    (rxReadCounted n s).2 = { s with transport := (rxReadCounted n s).2.transport } := by
  unfold rxReadCounted
  split <;> rfl

theorem rxReadCounted_length_le (n : Nat) (s : State) : (rxReadCounted n s).1.length ≤ n := by
  unfold rxReadCounted
  split
  · exact Nat.zero_le _
  · exact rxTake_length_le _ _

/-! ### Ends of operations -/

/-- An operation that raises `RangeError` or hands back a value always ends (R236). -/
theorem endChecked_next {α : Type} (o : Except Int α) (reply : α → Reply) (s : State) :
    (∃ a, o = .ok a ∧ endChecked o reply s = .next (setReply (reply a) (clearError s))) ∨
    (∃ v, o = .error v ∧ endChecked o reply s = .next (raise .rangeError (.rangeError v) s)) := by
  cases o with
  | ok a => exact .inl ⟨a, rfl, rfl⟩
  | error v => exact .inr ⟨v, rfl, rfl⟩

@[simp] theorem withoutPreRead_none {s : State} (h : s.cfg.preRead = none) (o : Result State) :
    withoutPreRead s o = o := by
  simp [withoutPreRead, h]

/-- The FrameReader answers only under `CFG.PRE_READ = None` (10_state.md R26). -/
theorem withoutPreRead_eq_next {s t : State} {o : Result State} (h : withoutPreRead s o = .next t) :
    s.cfg.preRead = none ∧ o = .next t := by
  unfold withoutPreRead at h
  split at h
  · next hp => exact ⟨hp, h⟩
  · cases h

/-- Storing a whole frame always ends the cycle in `FrameFound` (43_framereader.md R176). -/
theorem storeFrame_next {len : Byte} {body : List Byte} (s : State) (h : body.length ≤ 255) :
    storeFrame len body s = .next (endCycle .frameFound (clearError
      { s with
        fb := (s.fb.writeBytes 0 [s.cfg.constants.hdrReal, s.cfg.constants.hdrReal, len]).writeBytes 3 body
        flen := BitVec.ofNat 9 (3 + len.toNat)
        fvalid := true })) := by
  simp only [storeFrame]
  rw [memWrite_inside _ (by simp [Config.fbMax]), andThen_next,
    memWrite_inside _ (by simp only [Config.fbMax]; omega), andThen_next]

end Sys2Proof.Laws
end

