-- ==== Sys2Proof/Laws/Operands.lean ====
section
/-! SUPPORT. What the operand computations give: bytes and signed values, rounding, lanes. -/

namespace Sys2Proof.Laws

open Sys2Proof.Machine

theorem byteOf_toNat {n : Int} (h : 0 ≤ n) (h' : n < 256) : (byteOf n).toNat = n.toNat := by
  simp only [byteOf, BitVec.toNat_ofNat]
  omega

/-- `sext_8` is the signed value of the byte (00_scope.md R11). -/
theorem sext8_toInt (b : Byte) : sext8 b = b.toInt := by
  simp only [sext8, BitVec.toInt]
  split <;> split <;> omega

theorem append_toNat (hi lo : Byte) : (hi ++ lo).toNat = 256 * hi.toNat + lo.toNat := by
  rw [BitVec.toNat_append, ← Nat.shiftLeft_add_eq_or_of_lt lo.isLt, Nat.shiftLeft_eq]
  omega

/-- `sext_16({hi, lo})` is the signed value of the two bytes, high byte first (R11). -/
theorem sext16_toInt (hi lo : Byte) : sext16 hi lo = (hi ++ lo).toInt := by
  have := hi.isLt
  have := lo.isLt
  simp only [sext16, BitVec.toInt, append_toNat]
  split <;> split <;> omega

/-- A rational as its floor and what is left over. -/
theorem floor_add_rest (q : Rat) : q - ((q.num / q.den : Int) : Rat) = ((q.num % q.den : Int) : Rat) / q.den := by
  have hden : (q.den : Rat) ≠ 0 := by exact_mod_cast q.den_nz
  have h : (q.num : Rat) = (q.den : Rat) * ((q.num / q.den : Int) : Rat) + ((q.num % q.den : Int) : Rat) := by
    exact_mod_cast (Int.mul_ediv_add_emod q.num q.den).symm
  rw [eq_div_iff hden, sub_mul, Rat.mul_den_eq_num]
  linarith

/-- `rnd` gives a nearest integer, under every tie rule, and the even one at a tie under ties to even
(41_codec_scale.md R135). -/
theorem rnd_nearest (t : TieRule) (q : Rat) :
    |q - rnd t q| ≤ 1 / 2 ∧ (t = .toEven → |q - rnd t q| = 1 / 2 → rnd t q % 2 = 0) := by
  have hden : (0 : Rat) < q.den := by exact_mod_cast q.den_pos
  have hpos : (0 : Int) < q.den := by exact_mod_cast q.den_pos
  have hr0 := Int.emod_nonneg q.num (by omega : (q.den : Int) ≠ 0)
  have hr1 := Int.emod_lt_of_pos q.num hpos
  have hfr := floor_add_rest q
  unfold rnd
  generalize q.num / (q.den : Int) = f at *
  generalize q.num % (q.den : Int) = r at *
  have hr0' : (0 : Rat) ≤ r := by exact_mod_cast hr0
  have hx : (0 : Rat) ≤ (r : Rat) / q.den := by positivity
  have hx1 : (r : Rat) / q.den < 1 := by rw [div_lt_one hden]; exact_mod_cast hr1
  have hup : q - ((f + 1 : Int) : Rat) = (r : Rat) / q.den - 1 := by push_cast; linarith
  simp only
  split
  · next h =>
    have h' : (2 * r : Rat) < q.den := by exact_mod_cast h
    have hlt : (r : Rat) / q.den < 1 / 2 := by rw [div_lt_iff₀ hden]; linarith
    rw [hfr, abs_of_nonneg hx]
    exact ⟨hlt.le, fun _ h => absurd h hlt.ne⟩
  · split
    · next h =>
      have h' : (q.den : Rat) < 2 * r := by exact_mod_cast h
      have hlt : 1 / 2 < (r : Rat) / q.den := by rw [lt_div_iff₀ hden]; linarith
      rw [hup, abs_of_nonpos (by linarith)]
      exact ⟨by linarith, fun _ h => by linarith⟩
    · next h1 h2 =>
      have h' : (2 * r : Rat) = q.den := by exact_mod_cast (by omega : 2 * r = (q.den : Int))
      have heq : (r : Rat) / q.den = 1 / 2 := by rw [div_eq_iff hden.ne']; linarith
      split
      · next htie =>
        rw [hup, heq]
        refine ⟨by norm_num, fun ht _ => ?_⟩
        subst ht
        simp only [tieGoesUp, bne_iff_ne] at htie
        omega
      · next htie =>
        rw [hfr, heq]
        refine ⟨by norm_num, fun ht _ => ?_⟩
        subst ht
        simp only [tieGoesUp, bne_iff_ne, ne_eq, Decidable.not_not] at htie
        exact htie

/-- Rounding an integer changes nothing, under every tie rule. -/
theorem rnd_intCast (t : TieRule) (n : Int) : rnd t (n : Rat) = n := by
  have h := (rnd_nearest t n).1
  have h' : ((|n - rnd t n| : Int) : Rat) < 1 := by push_cast; linarith
  have := Int.abs_lt_one_iff.mp (by exact_mod_cast h' : |n - rnd t n| < 1)
  omega

theorem payloadLanes_length {n k : Nat} {s : State} {vs : List Int} (h : payloadLanes n k s = .next vs) :
    vs.length = n := by
  induction n generalizing k vs with
  | zero => cases h; rfl
  | succ n ih =>
    obtain ⟨v, _, h⟩ := andThen_eq_next h
    obtain ⟨w, hw, h⟩ := andThen_eq_next h
    cases h
    simp [ih hw]

end Sys2Proof.Laws
end

