-- ==== Sys2Proof/Laws/PerInstr.lean ====
section
/-! SUPPORT. Per instruction: the code that the encoder gives a well-formed instruction under the printed constants matches its
row of spec/opcode_table.json, mask and match as the table prints them. -/

namespace Sys2Proof.Laws

/-- A row's format: how wide its word is (30_encoding.md R83, R85, R95). -/
inductive Format where
  | header
  | key
  | operation
  deriving DecidableEq, Repr

/-- A row of the opcode table: format, match, mask. -/
structure TableEntry where
  format : Format
  value : Nat
  mask : Nat
  deriving DecidableEq, Repr

/-- The table's row of each constructor. -/
def tableEntry : Instr → TableEntry
  | .hdrChatter _ => ⟨.header, 0xFFFF00, 0xFFFF00⟩
  | .hdrFrame _ => ⟨.header, 0xFEFE00, 0xFFFF00⟩
  | .hdrDesync _ => ⟨.header, 0x000000, 0x000000⟩
  | .decList6 _ => ⟨.key, 0x0E00, 0xFF00⟩
  | .decList4 _ => ⟨.key, 0x0A00, 0xFF00⟩
  | .decS8Sec => ⟨.key, 0x0450, 0xFFFF⟩
  | .decS16 _ => ⟨.key, 0x0400, 0xFF00⟩
  | .decS8 _ => ⟨.key, 0x0300, 0xFF00⟩
  | .decShort _ _ => ⟨.key, 0x0000, 0xFC00⟩
  | .decOther _ _ => ⟨.key, 0x0000, 0x0000⟩
  | .encodeInt8 _ => ⟨.operation, 0x0, 0xF⟩
  | .encodeInt16 _ => ⟨.operation, 0x1, 0xF⟩
  | .decodeInt8 _ => ⟨.operation, 0x2, 0xF⟩
  | .decodeInt16 _ _ => ⟨.operation, 0x3, 0xF⟩
  | .angleToInt _ => ⟨.operation, 0x4, 0xF⟩
  | .coordToInt _ => ⟨.operation, 0x5, 0xF⟩
  | .intToAngle _ => ⟨.operation, 0x6, 0xF⟩
  | .intToCoord _ => ⟨.operation, 0x7, 0xF⟩
  | .flatten _ => ⟨.operation, 0x8, 0xF⟩
  | .buildCommandPayload _ => ⟨.operation, 0x9, 0xF⟩
  | .readFrame => ⟨.operation, 0xA, 0xF⟩
  | .decode _ => ⟨.operation, 0xB, 0xF⟩
  | .unwrapSingle => ⟨.operation, 0xC, 0xF⟩

/-- A code matches a row: the format is the row's, and the word of a whole code agrees with the row's match under its mask. A
short header read has no word (R83), and a key of length 0 lacks the half that the row's mask ignores (R85). -/
def Matches (e : TableEntry) : Code → Prop
  | .header [a, b, c] => e.format = .header ∧ (a ++ b ++ c).toNat &&& e.mask = e.value
  | .header _ => e.format = .header
  | .key [len] => e.format = .key ∧ len = 0 ∧ (len ++ 0#8).toNat &&& e.mask = e.value
  | .key [len, cmd] => e.format = .key ∧ (len ++ cmd).toNat &&& e.mask = e.value
  | .key _ => False
  | .request r => e.format = .operation ∧ r.op.toNat &&& e.mask = e.value

/-- What is said of each instruction. -/
def TableRow.Statement (i : Instr) : Prop := WellFormed .printed i = true → Matches (tableEntry i) (encode .printed i)

/-- An operation's code is its row's match. -/
theorem matches_operation (op : BitVec 4) (o : Operand) : Matches ⟨.operation, op.toNat, 0xF⟩ (.request ⟨op, o⟩) := by
  refine ⟨rfl, ?_⟩
  have h : op.toNat < 2 ^ 4 := op.isLt
  exact (Nat.and_two_pow_sub_one_eq_mod _ 4).trans (Nat.mod_eq_of_lt h)

/-- A whole header matches its row when its first two bytes do: the mask ignores the third. -/
theorem header_masked (c : Byte) :
    (0xFF#8 ++ 0xFF#8 ++ c).toNat &&& 0xFFFF00 = 0xFFFF00 ∧ (0xFE#8 ++ 0xFE#8 ++ c).toNat &&& 0xFFFF00 = 0xFEFE00 := by
  revert c; decide +kernel

/-- The length half of a key, under the mask that ignores the command. -/
theorem key_masked (c : Byte) :
    (0x0E#8 ++ c).toNat &&& 0xFF00 = 0x0E00 ∧ (0x0A#8 ++ c).toNat &&& 0xFF00 = 0x0A00 ∧
    (0x04#8 ++ c).toNat &&& 0xFF00 = 0x0400 ∧ (0x03#8 ++ c).toNat &&& 0xFF00 = 0x0300 ∧
    (0x01#8 ++ c).toNat &&& 0xFC00 = 0x0000 ∧ (0x02#8 ++ c).toNat &&& 0xFC00 = 0x0000 := by
  revert c; decide +kernel

theorem TableRow.hdrChatter (instr : Byte) : TableRow.Statement (.hdrChatter instr) :=
  fun _ => ⟨rfl, (header_masked instr).1⟩

theorem TableRow.hdrFrame (len : Byte) : TableRow.Statement (.hdrFrame len) :=
  fun _ => ⟨rfl, (header_masked len).2⟩

theorem TableRow.hdrDesync (h : List Byte) : TableRow.Statement (.hdrDesync h) := by
  intro _
  match h with
  | [] | [_] | [_, _] | _ :: _ :: _ :: _ :: _ => exact rfl
  | [a, b, c] => exact ⟨rfl, Nat.and_zero _⟩

theorem TableRow.decList6 (cmd : Byte) : TableRow.Statement (.decList6 cmd) :=
  fun _ => ⟨rfl, (key_masked cmd).1⟩

theorem TableRow.decList4 (cmd : Byte) : TableRow.Statement (.decList4 cmd) :=
  fun _ => ⟨rfl, (key_masked cmd).2.1⟩

theorem TableRow.decS8Sec : TableRow.Statement .decS8Sec := fun _ => ⟨rfl, rfl⟩

theorem TableRow.decS16 (cmd : Byte) : TableRow.Statement (.decS16 cmd) :=
  fun _ => ⟨rfl, (key_masked cmd).2.2.1⟩

theorem TableRow.decS8 (cmd : Byte) : TableRow.Statement (.decS8 cmd) :=
  fun _ => ⟨rfl, (key_masked cmd).2.2.2.1⟩

theorem TableRow.decShort (len : Byte) (cmd : Option Byte) : TableRow.Statement (.decShort len cmd) := by
  intro h
  simp only [WellFormed, WellFormed.short, Bool.and_eq_true, decide_eq_true_eq, beq_iff_eq] at h
  obtain ⟨hlen, hcmd⟩ := h
  have hle : (len.toNat : Int) - 2 ≤ 0 := hlen
  have hcases : len = 0 ∨ len = 1 ∨ len = 2 := by bv_omega
  cases cmd with
  | none =>
    have h0 : len = 0 := by simpa using hcmd
    subst h0
    exact ⟨rfl, rfl, rfl⟩
  | some cmd =>
    rcases hcases with rfl | rfl | rfl
    · simp at hcmd
    · exact ⟨rfl, (key_masked cmd).2.2.2.2.1⟩
    · exact ⟨rfl, (key_masked cmd).2.2.2.2.2⟩

theorem TableRow.decOther (len cmd : Byte) : TableRow.Statement (.decOther len cmd) :=
  fun _ => ⟨rfl, Nat.and_zero _⟩

theorem TableRow.encodeInt8 (value : Int) : TableRow.Statement (.encodeInt8 value) :=
  fun _ => matches_operation 0 _

theorem TableRow.encodeInt16 (value : Int) : TableRow.Statement (.encodeInt16 value) :=
  fun _ => matches_operation 1 _

theorem TableRow.decodeInt8 (b : Byte) : TableRow.Statement (.decodeInt8 b) :=
  fun _ => matches_operation 2 _

theorem TableRow.decodeInt16 (hi lo : Byte) : TableRow.Statement (.decodeInt16 hi lo) :=
  fun _ => matches_operation 3 _

theorem TableRow.angleToInt (angleDegrees : Rat) : TableRow.Statement (.angleToInt angleDegrees) :=
  fun _ => matches_operation 4 _

theorem TableRow.coordToInt (coordMm : Rat) : TableRow.Statement (.coordToInt coordMm) :=
  fun _ => matches_operation 5 _

theorem TableRow.intToAngle (raw : Int) : TableRow.Statement (.intToAngle raw) :=
  fun _ => matches_operation 6 _

theorem TableRow.intToCoord (raw : Int) : TableRow.Statement (.intToCoord raw) :=
  fun _ => matches_operation 7 _

theorem TableRow.flatten (items : Nested) : TableRow.Statement (.flatten items) :=
  fun _ => matches_operation 8 _

theorem TableRow.buildCommandPayload (args : List Arg) : TableRow.Statement (.buildCommandPayload args) :=
  fun _ => matches_operation 9 _

theorem TableRow.readFrame : TableRow.Statement .readFrame :=
  fun _ => matches_operation 10 _

theorem TableRow.decode (expected : Byte) : TableRow.Statement (.decode expected) :=
  fun _ => matches_operation 11 _

theorem TableRow.unwrapSingle : TableRow.Statement .unwrapSingle :=
  fun _ => matches_operation 12 _

end Sys2Proof.Laws
end

