-- ==== Sys2Proof/Laws/Requests.lean ====
section
/-! SUPPORT. When an operand fits its port, said once for each kind of port, and the parsing of token streams. -/

namespace Sys2Proof.Laws

theorem fit_eq_ok {α : Type} {op : BitVec 4} {port : Option α} {make : α → Instr} {i : Instr}
    (h : fit op port make = .ok i) : ∃ a, port = some a ∧ i = make a := by
  cases port <;> cases h
  exact ⟨_, rfl, rfl⟩

theorem fitByte_eq_ok {op : BitVec 4} {o : Operand} {make : Byte → Instr} {i : Instr}
    (h : fitByte op o make = .ok i) : ∃ b, o = .bytes [b] ∧ i = make b := by
  unfold fitByte at h
  split at h
  · next e =>
    cases h
    cases o <;> cases e
    exact ⟨_, rfl, rfl⟩
  · cases h

theorem fitPair_eq_ok {op : BitVec 4} {o : Operand} {make : Byte → Byte → Instr} {i : Instr}
    (h : fitPair op o make = .ok i) : ∃ b c, o = .bytes [b, c] ∧ i = make b c := by
  unfold fitPair at h
  split at h
  · next e =>
    cases h
    cases o <;> cases e
    exact ⟨_, _, rfl, rfl⟩
  · cases h

theorem fitTokens_eq_ok {α : Type} {op : BitVec 4} {o : Operand} {read : Nested → Option α} {make : α → Instr}
    {i : Instr} (h : fitTokens op o read make = .ok i) :
    ∃ n a, tokensPort op o = .ok n ∧ read n = some a ∧ i = make a := by
  unfold fitTokens at h
  split at h
  · cases h
  · next n hn =>
    split at h
    · next a ha => cases h; exact ⟨n, a, hn, ha, rfl⟩
    · cases h

theorem fitNone_eq_ok {op : BitVec 4} {o : Operand} {i j : Instr} (h : fitNone op o i = .ok j) :
    o = .none ∧ j = i := by
  unfold fitNone at h
  split at h
  · next e => cases h; exact ⟨e, rfl⟩
  · cases h

/-- The tokens of a sequence put it in front of what stands behind them. -/
theorem foldr_tokensOf (n : Nested) {post : List Token} {stack : List Nested}
    (h : post.foldr tokenStep (some [.nil]) = some (.nil :: stack)) :
    (tokensOf n ++ post).foldr tokenStep (some [.nil]) = some (n :: stack) := by
  induction n generalizing post stack with
  | nil => exact h
  | scalar v rest ih => simp [tokensOf, ih h, tokenStep]
  | seq inner rest ih1 ih2 =>
    have h1 : (Token.closeSeq :: (tokensOf rest ++ post)).foldr tokenStep (some [.nil]) =
        some (.nil :: rest :: stack) := by
      simp only [List.foldr_cons, ih2 h]
      rfl
    simp only [tokensOf, List.cons_append, List.append_assoc, List.foldr_cons, ih1 h1]
    rfl

/-- Parsing the tokens of a sequence gives the sequence (42_codec_payload.md R150). -/
theorem parseTokens_tokensOf (n : Nested) : parseTokens (tokensOf n) = some n := by
  have h := foldr_tokensOf n (post := []) (stack := []) rfl
  rw [List.append_nil] at h
  simp only [parseTokens, h]

theorem flatIntegers_nestedOfList (vs : List Int) :
    flatIntegers (nestedOfList (vs.map fun v : Int => (v : Rat))) = some vs := by
  induction vs with
  | nil => rfl
  | cons v vs ih => simp [nestedOfList, flatIntegers, ih]

/-- Reading the arguments of a nested argument list gives the list (R154). -/
theorem argsOf_nestedOfArgs (args : List Arg) : argsOf (nestedOfArgs args) = some args := by
  induction args with
  | nil => rfl
  | cons a args ih => cases a <;> simp [nestedOfArgs, argsOf, ih, flatIntegers_nestedOfList]

end Sys2Proof.Laws
end

