-- ==== Sys2Proof/Laws/Stream.lean ====
section
/-! SUPPORT. Counted reads over the streams that claims speak of, and the frame that a stored frame leaves in the buffer. -/

namespace Sys2Proof.Laws

open Sys2Proof.Machine

/-- A counted read of a body that has arrived whole (20_memory.md R51, R53). -/
theorem rxReadCounted_full {s : State} {body rest : List Byte} {n : Nat} (h : StreamBegins s body rest)
    (hn : body.length = n) :
    rxReadCounted n s =
      (body, { s with transport := { s.transport with rx := rest, cursor := s.transport.cursor + n } }) := by
  obtain ⟨cfg, st, fb, flen, fvalid, err, errBytes, errN, res, rcnt, rkind, skipped, ⟨rx, again, answers, cursor, tx⟩,
    caller⟩ := s
  obtain ⟨hrx, ha⟩ := h
  dsimp only at hrx ha
  subst hrx ha
  by_cases h0 : n = 0
  · subst h0
    have hb : body = [] := List.eq_nil_of_length_eq_zero hn
    subst hb
    rfl
  · have h := rxTake_full (n := n) (t := ⟨body ++ rest, again, [], cursor, tx⟩) rfl hn (Nat.le_refl _)
    simp only [rxReadCounted, h0, if_false, rxRead, h, List.tail_nil]

/-- A counted read of a finite stream that is too short (R51). -/
theorem rxReadCounted_short {s : State} {n : Nat} (h : FiniteStream s) (hn : s.transport.rx.length < n) :
    rxReadCounted n s =
      (s.transport.rx, { s with transport :=
        { s.transport with rx := [], cursor := s.transport.cursor + s.transport.rx.length } }) := by
  obtain ⟨cfg, st, fb, flen, fvalid, err, errBytes, errN, res, rcnt, rkind, skipped, ⟨rx, again, answers, cursor, tx⟩,
    caller⟩ := s
  obtain ⟨hg, ha⟩ := h
  dsimp only at hg ha hn
  subst hg ha
  have h := rxTake_short (n := n) (t := ⟨rx, [], [], cursor, tx⟩) rfl hn (Nat.le_of_lt hn)
  simp only [rxReadCounted, show n ≠ 0 by omega, if_false, rxRead, h, List.tail_nil]

/-- A state whose buffer is what storing a frame leaves holds that frame (43_framereader.md R176). -/
theorem holdsFrame_of_stored {s t : State} {k : Constants} {len : Byte} {body : List Byte} (h : body.length = len.toNat)
    (hb : t.fb = (s.fb.writeBytes 0 [k.hdrReal, k.hdrReal, len]).writeBytes 3 body)
    (hv : t.fvalid = true) (hl : t.flen = BitVec.ofNat 9 (3 + len.toNat)) : HoldsFrame t (realFrame k len body) := by
  have hlen := len.isLt
  have hl' : t.flen.toNat = 3 + len.toNat := by rw [hl, BitVec.toNat_ofNat]; omega
  have hf : (realFrame k len body).length = 3 + len.toNat := by simp [realFrame, h]; omega
  refine ⟨hv, by rw [hl', hf], fun i hi => ?_⟩
  rw [hf] at hi
  refine fbRead_of_read hv (by omega) (by simp only [Config.fbMax]; omega) ?_
  rw [hb, read_writeBytes, read_writeBytes, ← List.getElem?_eq_getElem]
  by_cases h3 : 3 ≤ i
  · obtain ⟨j, rfl⟩ := Nat.exists_eq_add_of_le h3
    rw [if_pos (by omega)]
    simp [realFrame, Nat.add_comm 3 j]
  · rw [if_neg (by omega), if_pos (by simp only [List.length_cons, List.length_nil]; omega)]
    have hcase : i = 0 ∨ i = 1 ∨ i = 2 := by omega
    rcases hcase with rfl | rfl | rfl <;> rfl

/-- What a held frame's bytes read as. -/
theorem holdsFrame_read {s : State} {frame : List Byte} (h : HoldsFrame s frame) {i : Nat} {b : Byte}
    (hi : frame[i]? = some b) : fbRead i s = .next b := by
  obtain ⟨hlt, rfl⟩ := List.getElem?_eq_some_iff.mp hi
  exact h.2.2 i hlt

/-- A frame is held on through every change that leaves `FB`, `FLEN` and `FVALID` alone. -/
theorem holdsFrame_congr {s t : State} {frame : List Byte} (hb : t.fb = s.fb) (hl : t.flen = s.flen)
    (hv : t.fvalid = s.fvalid) (h : HoldsFrame s frame) : HoldsFrame t frame := by
  refine ⟨hv.trans h.1, by rw [hl]; exact h.2.1, fun i hi => ?_⟩
  rw [fbRead_congr hb hl hv]
  exact h.2.2 i hi

end Sys2Proof.Laws
end

