-- ==== Sys2Proof/Laws/Step.lean ====
section
/-! SUPPORT. What a step can do: every next state that the FrameReader's steps, the header rows and the decode rules can
answer, said once. -/

namespace Sys2Proof.Laws

open Sys2Proof.Machine

/-! ### Fetching -/

/-- Outside a read cycle the caller's next request is fetched. -/
theorem fetch_outside {s : State} (h : ¬ InCycle s) : fetch s = fetchRequest s := by
  unfold fetch
  split
  · next h1 h2 => exact absurd ⟨h1, .inl h2⟩ h
  · next h1 h2 => exact absurd ⟨h1, .inr h2⟩ h
  · rfl

/-- At `SEEK` the header read selects the instruction. -/
theorem fetch_seeking {s : State} (hw : s.caller.waiting = true) (hs : s.st = .seekingFrame) :
    fetch s = .instr (decodeHeader s.cfg.constants (rxTake 3 s.transport)) (rxRead 3 s).2 := by
  simp only [fetch, hw, hs]
  rfl

/-- At `CHAT` the step `CHAT` is taken. -/
theorem fetch_chatter {s : State} (hw : s.caller.waiting = true) (hs : s.st = .readingChatter) : fetch s = .chat := by
  simp only [fetch, hw, hs]

/-- What at most three header bytes decode to; the two frame classes take three (30_encoding.md R83). -/
theorem decodeHeader_cases {k : Constants} {h : List Byte} (hl : h.length ≤ 3) :
    (∃ b, decodeHeader k h = .hdrChatter b ∧ h.length = 3) ∨ (∃ b, decodeHeader k h = .hdrFrame b ∧ h.length = 3) ∨
      decodeHeader k h = .hdrDesync h := by
  match h, hl with
  | [], _ => exact .inr (.inr rfl)
  | [_], _ => exact .inr (.inr rfl)
  | [_, _], _ => exact .inr (.inr rfl)
  | [a, b, c], _ =>
    simp only [decodeHeader]
    split
    · exact .inl ⟨c, rfl, rfl⟩
    · exact .inr (.inl ⟨c, rfl, rfl⟩)
    · exact .inr (.inr rfl)

/-! ### The FrameReader -/

/-- A counted read changes the transport alone, and there neither the outbound bytes nor what the device repeats. -/
theorem rxReadCounted_frame (n : Nat) (s : State) :
    ∃ t : Transport, (rxReadCounted n s).2 = { s with transport := t } ∧ t.tx = s.transport.tx ∧
      t.again = s.transport.again ∧ t.cursor = s.transport.cursor + (rxReadCounted n s).1.length := by
  unfold rxReadCounted
  split
  · exact ⟨s.transport, rfl, rfl, rfl, rfl⟩
  · exact ⟨rxAdvance n s.transport, rfl, rfl, rfl, rfl⟩

/-- Every way in which storing a frame answers (43_framereader.md R176). -/
theorem storeFrame_eq_next {len : Byte} {body : List Byte} {s t : State} (h : storeFrame len body s = .next t) :
    3 + body.length ≤ Config.fbMax ∧ t = endCycle .frameFound (clearError
      { s with
        fb := (s.fb.writeBytes 0 [s.cfg.constants.hdrReal, s.cfg.constants.hdrReal, len]).writeBytes 3 body
        flen := BitVec.ofNat 9 (3 + len.toNat)
        fvalid := true }) := by
  unfold storeFrame at h
  obtain ⟨a, ha, h⟩ := andThen_eq_next h
  obtain ⟨b, hb, h⟩ := andThen_eq_next h
  obtain ⟨-, rfl⟩ := memWrite_eq_next ha
  obtain ⟨h2, rfl⟩ := memWrite_eq_next hb
  cases h
  exact ⟨h2, rfl⟩

/-- Every way in which action `FRAME` answers: the body is short, or the whole frame is stored (R176, R178). -/
theorem execHdrFrame_cases {len : Byte} {s t : State} (h : execHdrFrame len s = .next t) :
    s.cfg.preRead = none ∧
      ((rxReadCounted len.toNat s).1.length < len.toNat ∧ t = failIncomplete (rxReadCounted len.toNat s).2 ∨
        (rxReadCounted len.toNat s).1.length = len.toNat ∧
          storeFrame len (rxReadCounted len.toNat s).1 (rxReadCounted len.toNat s).2 = .next t) := by
  obtain ⟨hp, h⟩ := withoutPreRead_eq_next h
  have hle := rxReadCounted_length_le len.toNat s
  dsimp only at h
  split at h
  · next hlt => cases h; exact ⟨hp, .inl ⟨hlt, rfl⟩⟩
  · exact ⟨hp, .inr ⟨by omega, h⟩⟩

/-- Every way in which step `CHAT` answers: no length byte, a short body, or a whole body (R175). -/
theorem chatStep_cases {s t : State} (h : chatStep s = .next t) :
    s.cfg.preRead = none ∧
      ((rxRead 1 s).1 = [] ∧ t = failIncomplete (countSkipped 0 (rxRead 1 s).2) ∨
        ∃ (n : Byte) (r : List Byte × State), (rxRead 1 s).1 = [n] ∧
          r = rxReadCounted n.toNat (countSkipped 1 (rxRead 1 s).2) ∧
          (r.1.length < n.toNat ∧ t = failIncomplete (countSkipped r.1.length r.2) ∨
            r.1.length = n.toNat ∧ t = setSeq .seekingFrame (countSkipped r.1.length r.2))) := by
  obtain ⟨hp, h⟩ := withoutPreRead_eq_next h
  refine ⟨hp, ?_⟩
  have hl := rxTake_length_le 1 s.transport
  simp only [rxRead] at h ⊢
  split at h
  · next he =>
    cases h
    exact .inl ⟨he, by rw [he]; rfl⟩
  · next n r he =>
    rw [he] at hl h
    have hr : r = [] := List.eq_nil_of_length_eq_zero (by simpa using hl)
    subst hr
    refine .inr ⟨n, _, he, rfl, ?_⟩
    unfold skipBody at h
    have hle := rxReadCounted_length_le n.toNat (countSkipped 1 { s with transport := rxAdvance 1 s.transport })
    simp only [List.length_singleton] at h
    split at h
    · next hlt => cases h; exact .inl ⟨hlt, rfl⟩
    · cases h; exact .inr ⟨by omega, rfl⟩

/-! ### The Decoder -/

/-- A list rule answers only with its lanes, of which there are at most six (44_decoder.md R205). -/
theorem decodeLanes_eq_next {bl : Int} {s t : State} (h : decodeLanes bl s = .next t) :
    (bl / 2).toNat ≤ Config.resN ∧ ∃ vs, payloadLanes (bl / 2).toNat 0 s = .next vs ∧ t = deliver vs .listS16 s := by
  simp only [decodeLanes] at h
  split at h
  · cases h
  · next hn =>
    obtain ⟨vs, hv, h⟩ := andThen_eq_next h
    cases h
    exact ⟨Nat.le_of_not_lt hn, vs, hv, rfl⟩

/-- A byte rule answers only with the signed value of its byte (R207, R208). -/
theorem decodeByte_eq_next {k : Nat} {s t : State} (h : decodeByte k s = .next t) :
    ∃ b, fbRead (payloadOffset k) s = .next b ∧ t = deliver [sext8 b] .s8 s := by
  obtain ⟨v, hv, h⟩ := andThen_eq_next h
  obtain ⟨b, hb, hv⟩ := andThen_eq_next hv
  cases hv
  cases h
  exact ⟨b, hb, rfl⟩

/-- Every decode rule ends in a delivered or an empty result (R203 to R209). -/
theorem runRule_cases {r : DecodeRule} {s t : State} (h : runRule r s = .next t) :
    (∃ vs k, t = deliver vs k s) ∨ ∃ k, t = emptyResult k s := by
  cases r with
  | list6 => obtain ⟨-, vs, -, rfl⟩ := decodeLanes_eq_next h; exact .inl ⟨vs, _, rfl⟩
  | list4 => obtain ⟨-, vs, -, rfl⟩ := decodeLanes_eq_next h; exact .inl ⟨vs, _, rfl⟩
  | s8Sec => obtain ⟨b, -, rfl⟩ := decodeByte_eq_next h; exact .inl ⟨_, _, rfl⟩
  | s16 => obtain ⟨v, -, h⟩ := andThen_eq_next h; cases h; exact .inl ⟨_, _, rfl⟩
  | s8 => obtain ⟨b, -, rfl⟩ := decodeByte_eq_next h; exact .inl ⟨_, _, rfl⟩
  | short => cases h; exact .inr ⟨_, rfl⟩
  | other =>
    change execDecOther s = .next t at h
    unfold execDecOther at h
    split at h
    · obtain ⟨b, -, rfl⟩ := decodeByte_eq_next h; exact .inl ⟨_, _, rfl⟩
    · cases h; exact .inr ⟨_, rfl⟩

/-- `DECODE` runs a rule or ends in an empty result (R201, R202, R211). -/
theorem execDecode_cases {expected : Byte} {s t : State} (h : execDecode expected s = .next t) :
    (∃ r, runRule r s = .next t) ∨ ∃ k, t = emptyResult k s := by
  unfold execDecode at h
  split at h
  · obtain ⟨len, -, h⟩ := andThen_eq_next h
    split at h
    · exact .inl ⟨_, h⟩
    · obtain ⟨cmd, -, h⟩ := andThen_eq_next h
      split at h
      · exact .inl ⟨_, h⟩
      · cases h; exact .inr ⟨_, rfl⟩
  · cases h; exact .inr ⟨_, rfl⟩

end Sys2Proof.Laws
end

