-- ==== Sys2Proof/Tests/Slice0.lean ====
section
/-! SUPPORT. The model's own tests: ill-formed terms, words written out from the encoding tables, one or two steps for each
instruction with the values of 95_test_vectors.md (V1 to V9, S4 to S8), and for every obligation with hypotheses a witness
that meets them. -/

namespace Sys2Proof.Tests

open Sys2Proof.Machine Sys2Proof.Laws

/-! ### Small states -/

/-- What a field of the next state is, if there is a next state. -/
def gives {α : Type} (f : State → α) (o : Result State) : Option α :=
  match o with
  | .next t => some (f t)
  | _ => none

/-- Why a step is refused, if it is. -/
def refusal (o : Result State) : Option Refusal :=
  match o with
  | .refused r => some r
  | _ => none

/-- After reset, with this stream and these requests. -/
def feed (rx : List Byte) (requests : List Request) : State :=
  { State.reset with
    transport := { State.reset.transport with rx := rx }
    caller := { State.reset.caller with requests := requests } }

/-- Inside a read cycle. -/
def cycleAt (q : SeqState) (rx : List Byte) : State :=
  { feed rx [] with st := q, caller := { State.reset.caller with waiting := true } }

/-- With this real frame in the buffer. -/
def holding (len : Byte) (body : List Byte) : State :=
  { State.reset with
    st := .frameFound
    fb := (State.reset.fb.writeBytes 0 [0xFE, 0xFE, len]).writeBytes 3 body
    flen := BitVec.ofNat 9 (3 + len.toNat)
    fvalid := true }

/-- With this state's parameter for the other body lengths set to `EMPTY`. -/
def withEmptyPolicy (s : State) : State := { s with cfg := { s.cfg with otherLen := .empty } }

/-- The decode result: `ERR`, `RKIND`, `RCNT`, `x[0]`, `FVALID`. -/
def verdict (s : State) : ErrKind × ResultKind × Nat × Int × Bool :=
  (s.err, s.rkind, s.rcnt.toNat, s.res.x0.toInt, s.fvalid)

theorem holding_holds {len : Byte} {body : List Byte} (h : body.length = len.toNat) :
    HoldsFrame (holding len body) (realFrame .printed len body) := holdsFrame_of_stored h rfl rfl rfl

theorem holding_holds_empty {len : Byte} {body : List Byte} (h : body.length = len.toNat) :
    HoldsFrame (withEmptyPolicy (holding len body)) (realFrame .printed len body) :=
  holdsFrame_congr (s := holding len body) rfl rfl rfl (holding_holds h)

theorem feed_outside (rx : List Byte) (requests : List Request) : ¬ InCycle (feed rx requests) := fun h => by
  cases h.1

theorem feed_requested (rx : List Byte) (r : Request) (rest : List Request) : Requested (feed rx (r :: rest)) r rest :=
  ⟨feed_outside rx (r :: rest), rfl⟩

/-! ### Ill-formed terms, one for each check of WellFormed .printed (30_encoding.md R83, R85) -/

theorem test_wf_desync_chatter_marker : WellFormed .printed (.hdrDesync [0xFF, 0xFF, 0x01]) = false := by decide
theorem test_wf_desync_real_marker : WellFormed .printed (.hdrDesync [0xFE, 0xFE, 0x04]) = false := by decide
theorem test_wf_desync_too_long : WellFormed .printed (.hdrDesync [0, 1, 2, 3]) = false := by decide
theorem test_wf_desync_good : WellFormed .printed (.hdrDesync [0xFE, 0xFF, 0x04]) = true ∧ WellFormed .printed (.hdrDesync []) = true := by decide
theorem test_wf_s16_servo : WellFormed .printed (.decS16 0x50) = false := by decide
theorem test_wf_short_too_long : WellFormed .printed (.decShort 3 (some 0x20)) = false := by decide
theorem test_wf_short_zero_with_command : WellFormed .printed (.decShort 0 (some 0x20)) = false := by decide
theorem test_wf_short_one_without_command : WellFormed .printed (.decShort 1 none) = false := by decide
theorem test_wf_short_good : WellFormed .printed (.decShort 0 none) = true ∧ WellFormed .printed (.decShort 2 (some 0x20)) = true := by decide
theorem test_wf_other_taken :
    WellFormed .printed (.decOther 10 0) = false ∧ WellFormed .printed (.decOther 14 0) = false ∧
      WellFormed .printed (.decOther 4 0) = false ∧ WellFormed .printed (.decOther 3 0) = false ∧
      WellFormed .printed (.decOther 2 0) = false := by decide
/-- A frame of declared length 0 has no command byte, whatever the length overhead (R85). -/
theorem test_wf_other_zero : WellFormed { lenOverhead := -5 } (.decOther 0 0) = false := by decide
theorem test_wf_other_good : WellFormed .printed (.decOther 5 0x20) = true ∧ WellFormed .printed (.decOther 255 0) = true := by decide

/-! ### Words written out from the encoding tables -/

/-- R83: FF FF and an instruction byte. -/
theorem test_decode_hdr_chatter : decodeTableWord 24 0xFFFF07 = some (.hdrChatter 0x07) := by decide
/-- R83: FE FE and a length byte. -/
theorem test_decode_hdr_frame : decodeTableWord 24 0xFEFE0E = some (.hdrFrame 0x0E) := by decide
/-- R83: the markers are pairs, FF FE is neither. -/
theorem test_decode_hdr_desync : decodeTableWord 24 0xFFFE04 = some (.hdrDesync [0xFF, 0xFE, 0x04]) := by decide
/-- R85: length 14. -/
theorem test_decode_list6 : decodeTableWord 16 0x0E21 = some (.decList6 0x21) := by decide
/-- R85: length 10, also for command 0x50. -/
theorem test_decode_list4 : decodeTableWord 16 0x0A50 = some (.decList4 0x50) := by decide
/-- R85: length 4 and command 0x50. -/
theorem test_decode_s8sec : decodeTableWord 16 0x0450 = some .decS8Sec := by decide
/-- R85: length 4 and another command. -/
theorem test_decode_s16 : decodeTableWord 16 0x0451 = some (.decS16 0x51) := by decide
/-- R85: length 3. -/
theorem test_decode_s8 : decodeTableWord 16 0x0350 = some (.decS8 0x50) := by decide
/-- R85: lengths 0, 1, 2; length 0 has no command byte. -/
theorem test_decode_short :
    decodeTableWord 16 0x0000 = some (.decShort 0 none) ∧ decodeTableWord 16 0x0120 = some (.decShort 1 (some 0x20)) ∧
      decodeTableWord 16 0x02FF = some (.decShort 2 (some 0xFF)) := by decide
/-- R85: every other length, the first at 5. -/
theorem test_decode_other :
    decodeTableWord 16 0x0520 = some (.decOther 5 0x20) ∧ decodeTableWord 16 0x0B00 = some (.decOther 11 0) := by decide
/-- R95: the operation codes, with zero operands. -/
theorem test_decode_codec :
    decodeTableWord 8 0x0 = some (.encodeInt8 0) ∧ decodeTableWord 8 0x1 = some (.encodeInt16 0) ∧
      decodeTableWord 8 0x2 = some (.decodeInt8 0) ∧ decodeTableWord 8 0x3 = some (.decodeInt16 0 0) := by decide
theorem test_decode_scale :
    decodeTableWord 8 0x4 = some (.angleToInt 0) ∧ decodeTableWord 8 0x5 = some (.coordToInt 0) ∧
      decodeTableWord 8 0x6 = some (.intToAngle 0) ∧ decodeTableWord 8 0x7 = some (.intToCoord 0) := by decide
theorem test_decode_rest :
    decodeTableWord 8 0x8 = some (.flatten .nil) ∧ decodeTableWord 8 0x9 = some (.buildCommandPayload []) ∧
      decodeTableWord 8 0xA = some .readFrame ∧ decodeTableWord 8 0xB = some (.decode 0) ∧
      decodeTableWord 8 0xC = some .unwrapSingle ∧ decodeTableWord 8 0xF = none := by decide
/-- R116: the order of the two bytes. -/
theorem test_decode_operands :
    decodeRequest ⟨3, .bytes [0xDC, 0xD8]⟩ = .ok (.decodeInt16 0xDC 0xD8) ∧
      decodeRequest ⟨11, .bytes [0x20]⟩ = .ok (.decode 0x20) ∧ decodeRequest ⟨10, .int 0⟩ = .error (.operandPort 10) := by
  decide
/-- R150: [1, [2], 3] in tokens. -/
theorem test_decode_tokens :
    decodeRequest ⟨8, .tokens [.scalar 1, .openSeq, .scalar 2, .closeSeq, .scalar 3]⟩ =
      .ok (.flatten (.scalar 1 (.seq (.scalar 2 .nil) (.scalar 3 .nil)))) := by decide
/-- R150, log 32: `1` spells [1] and `OPEN 1 CLOSE` spells [[1]]. -/
theorem test_decode_tokens_outermost :
    parseTokens [.scalar 1] = some (.scalar 1 .nil) ∧
      parseTokens [.openSeq, .scalar 1, .closeSeq] = some (.seq (.scalar 1 .nil) .nil) := by decide
/-- R150: an unbalanced stream. R154: [[1, [2]]] is not admitted. -/
theorem test_decode_tokens_refused :
    decodeRequest ⟨8, .tokens [.openSeq, .scalar 2]⟩ = .error .tokenBrackets ∧
      decodeRequest ⟨9, .tokens [.openSeq, .scalar 1, .openSeq, .scalar 2, .closeSeq, .closeSeq]⟩ =
        .error .payloadShape := by decide
/-- V8: the number of keys of each row. -/
theorem test_decode_lens : (printedKeyRows.map (·.rule)).length = 7 ∧ printedKeyRule 0x0450 = .s8Sec ∧ printedKeyRule 0x04FF = .s16 := by decide

/-- R9: the constants are read from the configuration, not fixed. -/
theorem test_constants_read :
    decodeHeader { hdrReal := 0xAA } [0xAA, 0xAA, 4] = .hdrFrame 4 ∧
      decodeHeader { hdrReal := 0xAA } [0xFE, 0xFE, 4] = .hdrDesync [0xFE, 0xFE, 4] ∧
      decodeKey { blListB := 10 } [12, 0x20] = .ok (.decList4 0x20) ∧
      decodeKey { cmdIsServoEnable := 0x51 } [4, 0x51] = .ok .decS8Sec := by decide

/-! ### One step of each instruction -/

/-- V1. -/
theorem test_encodeInt8_low :
    gives (fun t => (t.err, t.caller.reply)) (exec (.encodeInt8 (-128)) State.reset) = some (.none, .bytes [0x80]) := by decide
theorem test_encodeInt8_high :
    gives (fun t => (t.err, t.caller.reply)) (exec (.encodeInt8 128) State.reset) =
      some (.rangeError, .rangeError 128) := by decide
/-- V2. -/
theorem test_encodeInt16_negative :
    gives (fun t => (t.err, t.caller.reply)) (exec (.encodeInt16 (-9000)) State.reset) =
      some (.none, .bytes [0xDC, 0xD8]) := by decide
theorem test_encodeInt16_low :
    gives (fun t => (t.err, t.caller.reply)) (exec (.encodeInt16 (-32769)) State.reset) =
      some (.rangeError, .rangeError (-32769)) := by decide
/-- V1. -/
theorem test_decodeInt8_sign :
    gives (fun t => t.caller.reply) (exec (.decodeInt8 0x80) State.reset) = some (.integer (-128)) := by decide
theorem test_decodeInt8_top :
    gives (fun t => t.caller.reply) (exec (.decodeInt8 0x7F) State.reset) = some (.integer 127) := by decide
/-- V2. -/
theorem test_decodeInt16_order :
    gives (fun t => t.caller.reply) (exec (.decodeInt16 0x01 0x00) State.reset) = some (.integer 256) := by decide
theorem test_decodeInt16_sign :
    gives (fun t => t.caller.reply) (exec (.decodeInt16 0xFF 0x38) State.reset) = some (.integer (-200)) := by decide
/-- V3: the tie 1234.5, and no truncation. -/
theorem test_angleToInt_tie :
    gives (fun t => t.caller.reply) (exec (.angleToInt (12345 / 1000)) State.reset) = some (.integer 1234) := by
  decide +kernel
theorem test_angleToInt_negative :
    gives (fun t => t.caller.reply) (exec (.angleToInt (-6 / 1000)) State.reset) = some (.integer (-1)) := by decide +kernel
/-- V3: the tie -507.5. -/
theorem test_coordToInt_tie :
    gives (fun t => t.caller.reply) (exec (.coordToInt (-5075 / 100)) State.reset) = some (.integer (-508)) := by
  decide +kernel
theorem test_coordToInt_exact :
    gives (fun t => t.caller.reply) (exec (.coordToInt (1553 / 10)) State.reset) = some (.integer 1553) := by decide +kernel
/-- V4. -/
theorem test_intToAngle :
    gives (fun t => t.caller.reply) (exec (.intToAngle (-9050)) State.reset) = some (.physical (-905 / 10)) := by
  decide +kernel
theorem test_intToCoord :
    gives (fun t => t.caller.reply) (exec (.intToCoord (-32768)) State.reset) = some (.physical (-32768 / 10)) := by
  decide +kernel
/-- V5: [1, [2, [3, 4]], [], 5]. -/
theorem test_flatten :
    gives (fun t => t.caller.reply)
        (exec (.flatten (.scalar 1 (.seq (.scalar 2 (.seq (.scalar 3 (.scalar 4 .nil)) .nil)) (.seq .nil (.scalar 5 .nil)))))
          State.reset) =
      some (.sequence [1, 2, 3, 4, 5]) := by decide +kernel
/-- V6: [[100, -200], 50]. -/
theorem test_buildCommandPayload :
    gives (fun t => (t.err, t.caller.reply)) (exec (.buildCommandPayload [.numbers [100, -200], .scalar 50]) State.reset) =
      some (.none, .sequence [0x00, 0x64, 0xFF, 0x38, 50]) := by decide +kernel
/-- V6: [[0, 40000]]. -/
theorem test_buildCommandPayload_range :
    gives (fun t => (t.err, t.caller.reply)) (exec (.buildCommandPayload [.numbers [0, 40000]]) State.reset) =
      some (.rangeError, .rangeError 40000) := by decide
/-- R171: the start of a cycle clears the frame. -/
theorem test_readFrame :
    gives (fun t => (t.st, t.fvalid, t.flen, t.caller.waiting)) (exec .readFrame (holding 1 [0x20])) =
      some (.seekingFrame, false, 0, true) := by decide
/-- V7: `FF FF 01`, the header alone. -/
theorem test_hdrChatter :
    gives (fun t => (t.skipped, t.st, t.transport.rx)) (step (cycleAt .seekingFrame [0xFF, 0xFF, 0x01, 0x02])) =
      some (3, .readingChatter, [0x02]) := by decide
/-- R25: the count wraps. -/
theorem test_hdrChatter_wraps :
    gives (fun t => t.skipped) (exec (.hdrChatter 0) { State.reset with skipped := 0xFFFFFFFF }) = some 2 := by decide
/-- V7: `FE FE 04 20 FF 38 00`: the frame with any footer. -/
theorem test_hdrFrame :
    gives (fun t => (t.st, t.err, t.flen, t.fb.map (·.2)))
        (step (cycleAt .seekingFrame [0xFE, 0xFE, 0x04, 0x20, 0xFF, 0x38, 0x00, 0x99])) =
      some (.frameFound, .none, 7, [0xFE, 0xFE, 0x04, 0x20, 0xFF, 0x38, 0x00]) := by decide
/-- S8: six bytes of ten. -/
theorem test_hdrFrame_short :
    gives (fun t => (t.st, t.err, t.errN, t.fvalid, t.transport.cursor))
        (step (cycleAt .seekingFrame [0xFE, 0xFE, 0x0A, 0x20, 1, 2, 3, 4, 5])) =
      some (.readError, .incompleteFrame, 0, false, 9) := by decide
/-- V7: `00 FE FE 04 ...`: no rescan. -/
theorem test_hdrDesync :
    gives (fun t => (t.st, t.err, t.errBytes, t.errN, t.transport.rx))
        (step (cycleAt .seekingFrame [0x00, 0xFE, 0xFE, 0x04])) =
      some (.readError, .readError, ⟨0x00, 0xFE, 0xFE⟩, 3, [0x04]) := by decide
/-- V7: `FE FE` and nothing more is a short header, not a frame. -/
theorem test_hdrDesync_short :
    gives (fun t => (t.err, t.errN)) (step (cycleAt .seekingFrame [0xFE, 0xFE])) = some (.readError, 2) := by decide
/-- V7: `FF FF 01 05 AA BB`, step `CHAT` with a short body. -/
theorem test_chat_short :
    gives (fun t => (t.st, t.err, t.skipped)) (step (cycleAt .readingChatter [0x05, 0xAA, 0xBB])) =
      some (.readError, .incompleteFrame, 3) := by decide
/-- V7: the body `FE FE 00` is not looked at. -/
theorem test_chat_body :
    gives (fun t => (t.st, t.skipped, t.transport.rx)) (step (cycleAt .readingChatter [0x03, 0xFE, 0xFE, 0x00, 0xFE])) =
      some (.seekingFrame, 4, [0xFE]) := by decide
/-- V8: LIST6. -/
theorem test_decList6 :
    gives (fun t => (t.rcnt.toNat, t.rkind, t.res))
        (exec (.decList6 0x20) (holding 0x0E [0x20, 0, 0, 0x23, 0x28, 0xDC, 0xD8, 0, 1, 0xFF, 0xFF, 0x80, 0, 0xFA])) =
      some (6, .listS16, ⟨0, 9000, BitVec.ofInt 16 (-9000), 1, BitVec.ofInt 16 (-1), 0x8000⟩) := by decide
/-- V8: LIST4; the two registers beyond stay. -/
theorem test_decList4 :
    gives (fun t => (t.rcnt.toNat, t.res))
        (exec (.decList4 0x35)
          { holding 0x0A [0x35, 0, 1, 0xFF, 0xFE, 0x7F, 0xFF, 0x80, 0, 0xFA] with res := ⟨9, 9, 9, 9, 9, 9⟩ }) =
      some (4, ⟨1, BitVec.ofInt 16 (-2), 32767, 0x8000, 9, 9⟩) := by decide
/-- S7: the 01 is ignored. -/
theorem test_decS8Sec :
    gives verdict (exec .decS8Sec (holding 4 [0x50, 0x01, 0xFF, 0xFA])) = some (.none, .s8, 1, -1, false) := by decide
/-- V8: S16. -/
theorem test_decS16 :
    gives verdict (exec (.decS16 0x20) (holding 4 [0x20, 0xFE, 0xFE, 0xFA])) = some (.none, .s16, 1, -258, false) := by decide
/-- V8: S8. -/
theorem test_decS8 :
    gives verdict (exec (.decS8 0x10) (holding 3 [0x10, 0x80, 0xFA])) = some (.none, .s8, 1, -128, false) := by decide
/-- V8: SHORT. -/
theorem test_decShort :
    gives verdict (exec (.decShort 2 (some 0x20)) (holding 2 [0x20, 0xFA])) = some (.shortLength, .empty, 0, 0, false) := by
  decide
/-- V8: OTHER under both policies. -/
theorem test_decOther :
    gives verdict (exec (.decOther 5 0x20) (holding 5 [0x20, 0x7F, 1, 2, 0xFA])) = some (.none, .s8, 1, 127, false) := by decide
theorem test_decOther_empty :
    gives verdict (exec (.decOther 5 0x20) (withEmptyPolicy (holding 5 [0x20, 0x7F, 1, 2, 0xFA]))) =
      some (.none, .empty, 0, 0, false) := by decide
/-- V8: the command check is skipped for a frame of length 0. -/
theorem test_decode_zero_length :
    gives verdict (exec (.decode 0x20) (holding 0 [])) = some (.shortLength, .empty, 0, 0, false) := by decide
/-- S5. -/
theorem test_decode_mismatch :
    gives verdict (exec (.decode 0x20) (holding 4 [0x21, 0x00, 0x64, 0xFA])) =
      some (.commandMismatch, .empty, 0, 0, false) := by decide
/-- R24, log 11: a list of more elements than there are result registers is refused. -/
theorem test_decList6_too_long :
    refusal (exec (.decList6 0x20) { State.reset with cfg := { constants := { blListA := 14 } } }) =
      some .resultRegisters := by decide
/-- V9. -/
theorem test_unwrapSingle :
    gives (fun t => t.caller.reply) (exec .unwrapSingle { State.reset with rcnt := 1, res := ⟨0xFEFE, 0, 0, 0, 0, 0⟩ }) =
      some (.integer (-258)) := by decide
theorem test_unwrapSingle_empty :
    gives (fun t => t.caller.reply) (exec .unwrapSingle State.reset) = some (.integer (-1)) := by decide
/-- R95: operation code 13 selects nothing. -/
theorem test_reserved_code :
    refusal (step (feed [] [⟨13, .none⟩])) = some (.notAnInstruction (.reservedOp 13)) := by decide
/-- The placing of table words: a request, a header, a dispatch key. -/
theorem test_place_words :
    gives (fun t => t.caller.reply) (step (State.reset.withFetchWord 8 0x1)) = some (.bytes [0, 0]) ∧
      gives (fun t => t.st) (step (State.reset.withFetchWord 24 0xFFFF00)) = some .readingChatter ∧
      gives verdict (step (State.reset.withFetchWord 16 0x0E20)) = some (.none, .listS16, 6, 0, false) := by
  decide

/-! ### Witnesses: for every obligation with hypotheses, a state and operands that meet them -/

theorem test_witness_StepRunsRequestedInstruction :
    (Requested (feed [] [⟨10, .none⟩]) ⟨10, .none⟩ [] ∧ decodeRequest ⟨10, .none⟩ = .ok .readFrame) ∧
      (Requested (feed [] [⟨15, .none⟩]) ⟨15, .none⟩ [] ∧ decodeRequest ⟨15, .none⟩ = .error (.reservedOp 15)) ∧
      (¬ InCycle State.reset ∧ State.reset.caller.requests = []) :=
  ⟨⟨feed_requested _ _ _, by decide⟩, ⟨feed_requested _ _ _, by decide⟩, feed_outside [] [], rfl⟩

theorem test_witness_StepRunsHeaderInstruction :
    ((cycleAt .seekingFrame []).caller.waiting = true ∧ (cycleAt .seekingFrame []).st = .seekingFrame) ∧
      (cycleAt .readingChatter []).caller.waiting = true ∧ (cycleAt .readingChatter []).st = .readingChatter := by decide

theorem test_witness_DecodeRunsDispatchedRow :
    ((holding 3 [0x20, 1, 0xFA]).fvalid = true ∧ fbRead 2 (holding 3 [0x20, 1, 0xFA]) = .next 3 ∧
        fbRead 3 (holding 3 [0x20, 1, 0xFA]) = .next 0x20 ∧ decodeKey .printed [3, 0x20] = .ok (.decS8 0x20)) ∧
      (holding 0 []).fvalid = true ∧ fbRead 2 (holding 0 []) = .next 0 :=
  ⟨⟨rfl, rfl, rfl, by decide⟩, rfl, rfl⟩

theorem test_witness_printed :
    State.reset.cfg.constants = .printed ∧ 0 ≤ State.reset.cfg.constants.lenOverhead ∧
      State.reset.cfg.constants.angleScale = 100 ∧ State.reset.cfg.constants.coordScale = 10 ∧
      Constants.printed.hdrChat = 0xFF ∧ Constants.printed.hdrReal = 0xFE ∧
      State.reset.cfg.constants.hdrReal ≠ State.reset.cfg.constants.hdrChat := by decide

theorem test_witness_Coherent : Coherent .printed := by
  constructor <;> first | decide | (unfold RowLength; decide)

/-- Other constants that keep the rows apart. -/
theorem test_witness_Coherent_other :
    Coherent { hdrReal := 0xAA, lenOverhead := 3, blListA := 13, blListB := 4, blPair := 3 } := by
  constructor <;> first | decide | (unfold RowLength; decide)

theorem test_witness_EncodeInt8 :
    ((-128 : Int) ≤ -128 ∧ (-128 : Int) ≤ 127) ∧ ((-128 : Int) ≤ 127 ∧ (127 : Int) ≤ 127) ∧
      ((-129 : Int) < -128 ∨ (127 : Int) < -129) ∧ ((128 : Int) < -128 ∨ (127 : Int) < 128) := by decide

theorem test_witness_EncodeInt16 :
    ((-32768 : Int) ≤ -32768 ∧ (-32768 : Int) ≤ 32767) ∧ ((-32768 : Int) ≤ 32767 ∧ (32767 : Int) ≤ 32767) ∧
      ((-32769 : Int) < -32768 ∨ (32767 : Int) < -32769) ∧ ((32768 : Int) < -32768 ∨ (32767 : Int) < 32768) := by decide

theorem test_witness_IntegerCodecRoundTrips :
    ((-32768 : Int) ≤ -32768 ∧ (-32768 : Int) ≤ 32767) ∧ ((-128 : Int) ≤ 127 ∧ (127 : Int) ≤ 127) := by decide

theorem test_witness_tie :
    State.reset.cfg.tieRule = .toEven ∧ |(12345 / 1000 : Rat) * 100 - (1234 : Int)| = 1 / 2 ∧
      |(5 / 100 : Rat) * 10 - (0 : Int)| = 1 / 2 := by
  refine ⟨rfl, ?_, ?_⟩ <;> norm_num

theorem test_witness_BuildCommandPayload :
    (∀ v ∈ innerNumbers [.scalar 40000, .numbers [-32768, 32767]], -32768 ≤ v ∧ v ≤ 32767) ∧
      innerNumbers [.numbers [0], .scalar 7, .numbers [32768, 5]] = [0] ++ 32768 :: [5] ∧
      (∀ u ∈ ([0] : List Int), -32768 ≤ u ∧ u ≤ 32767) ∧ ((32768 : Int) < -32768 ∨ (32767 : Int) < 32768) := by decide

theorem test_witness_preRead_none : State.reset.cfg.preRead = none := rfl

theorem test_witness_HeaderWordsClassify :
    ((0xFF#8 ++ 0xFF#8 ++ 0xFE#8) &&& 0xFFFF00#24 = 0xFFFF00#24) ∧
      ((0xFE#8 ++ 0xFE#8 ++ 0xFF#8) &&& 0xFFFF00#24 = 0xFEFE00#24) ∧
      ((0xFE#8 ++ 0xFF#8 ++ 0x00#8) &&& 0xFFFF00#24 ≠ 0xFFFF00#24 ∧
        (0xFE#8 ++ 0xFF#8 ++ 0x00#8) &&& 0xFFFF00#24 ≠ 0xFEFE00#24) ∧ ([0xFE, 0xFE] : List Byte).length < 3 := by decide

theorem test_witness_RxRead :
    ((feed [1, 2] []).transport.again = [] ∨ 3 ≤ (feed [1, 2] []).transport.rx.length) ∧ 2 ≤ 3 ∧
      2 ≤ (feed [1, 2] []).transport.rx.length := by decide

theorem test_witness_ChatStepOverFiniteStream :
    let s := cycleAt .readingChatter ([2] ++ [7, 8] ++ [9])
    let t := cycleAt .readingChatter [2, 7]
    (s.caller.waiting = true ∧ s.st = .readingChatter ∧ s.cfg.preRead = none ∧ FiniteStream s) ∧
      (s.transport.rx = 2 :: ([7, 8] ++ [9]) ∧ ([7, 8] : List Byte).length = (2 : Byte).toNat) ∧
      (t.transport.rx = 2 :: [7] ∧ ([7] : List Byte).length < (2 : Byte).toNat) ∧
      (cycleAt .readingChatter []).transport.rx = [] :=
  ⟨⟨rfl, rfl, rfl, rfl, rfl⟩, ⟨rfl, rfl⟩, ⟨rfl, by decide⟩, rfl⟩

/-- Timeouts with bytes still to come, as in program P5: no length byte; a body of five cut to two; and a body whole. -/
theorem test_witness_ChatStep :
    let s := cycleAt .readingChatter [5, 0xAA, 0xBB, 0xFE, 0xFE]
    let cut (draws : List Nat) : Transport := { s.transport with answers := draws }
    (s.caller.waiting = true ∧ s.st = .readingChatter ∧ s.cfg.preRead = none) ∧ rxTake 1 (cut [0]) = [] ∧
      (rxTake 1 (cut [1, 2]) = [5] ∧
        (rxReadCounted 5 { s with transport := rxAdvance 1 (cut [1, 2]) }).1 = [0xAA, 0xBB]) ∧
      rxTake 1 { s.transport with rx := [0] } = [0] := by decide

theorem test_witness_FrameHeaderStoresFrame :
    (0 : Byte).toNat ≤ (rxReadCounted 0 (feed [5] [])).1.length ∧
      (StreamBegins (feed [5] []) [] [5] ∧ ([] : List Byte).length = (0 : Byte).toNat) ∧
      StreamBegins (feed (List.replicate 255 7) []) (List.replicate 255 7) [] ∧
      (List.replicate 255 (7 : Byte)).length = (255 : Byte).toNat :=
  ⟨Nat.zero_le _, ⟨⟨rfl, rfl⟩, rfl⟩, ⟨(List.append_nil _).symm, rfl⟩, List.length_replicate⟩

theorem test_witness_FrameHeaderShortBody :
    let late := { feed [5, 6, 7] [] with transport := { (feed [5, 6, 7] []).transport with answers := [1] } }
    ((feed [5] []).cfg.preRead = none ∧ FiniteStream (feed [5] []) ∧
      (feed [5] []).transport.rx.length < (2 : Byte).toNat) ∧
      (rxReadCounted 2 late).1.length < (2 : Byte).toNat ∧ (rxReadCounted 2 late).2.transport.rx = [6, 7] :=
  ⟨⟨rfl, ⟨rfl, rfl⟩, by decide⟩, by decide, by decide⟩

theorem test_witness_Desync :
    (rxTake 3 (cycleAt .seekingFrame [0xFE, 0xFE]).transport = [0xFE, 0xFE] ∧ ([0xFE, 0xFE] : List Byte).length < 3) ∧
      rxTake 3 (cycleAt .seekingFrame [0xFF, 0xFE, 4, 5]).transport = [0xFF, 0xFE, 4] ∧
      (¬ ((0xFF : Byte) = 0xFF ∧ (0xFE : Byte) = 0xFF) ∧ ¬ ((0xFF : Byte) = 0xFE ∧ (0xFE : Byte) = 0xFE)) := by decide

theorem test_witness_step_next :
    (∃ t, step (cycleAt .seekingFrame [0xFF, 0xFF, 1]) = .next t ∧ t.st = .readingChatter) ∧
      (∃ t, step (cycleAt .seekingFrame []) = .next t ∧ t.st ≠ .readingChatter) ∧
      (∃ t, step (cycleAt .readingChatter []) = .next t) ∧ ∃ t, step (feed [] [⟨10, .none⟩]) = .next t :=
  ⟨⟨_, rfl, rfl⟩, ⟨_, rfl, by decide⟩, ⟨_, rfl⟩, ⟨_, rfl⟩⟩

theorem test_witness_ReadFrameSkipsChatter :
    let rx := chatterFrame .printed 9 [] ++ chatterFrame .printed 7 [0xFE, 0xFE, 0] ++ realFrame .printed 3 [0x10, 5, 0xFA] ++ [1]
    Requested (feed rx [⟨10, .none⟩]) ⟨10, .none⟩ [] ∧ (feed rx [⟨10, .none⟩]).cfg.preRead = none ∧
      (∀ c ∈ ([(9, []), (7, [0xFE, 0xFE, 0])] : List (Byte × List Byte)), c.2.length ≤ 255) ∧
      ([0x10, 5, 0xFA] : List Byte).length = (3 : Byte).toNat ∧
      StreamBegins (feed rx [⟨10, .none⟩])
        (([(9, []), (7, [0xFE, 0xFE, 0])] : List (Byte × List Byte)).flatMap (fun c => chatterFrame .printed c.1 c.2) ++
          realFrame .printed 3 [0x10, 5, 0xFA]) [1] :=
  ⟨feed_requested _ _ _, rfl, by decide, by decide, by decide, rfl⟩

theorem test_witness_ReadFrameRefines :
    Requested (feed [0xFE, 0xFE, 0] [⟨10, .none⟩]) ⟨10, .none⟩ [] ∧ FiniteStream (feed [0xFE, 0xFE, 0] [⟨10, .none⟩]) :=
  ⟨feed_requested _ _ _, rfl, rfl⟩

/-- The pseudocode over the streams of V7: a frame behind chatter, a short body, a stray byte. -/
theorem test_cycleOver :
    cycleOver .printed 20 [0xFF, 0xFF, 9, 0, 0xFF, 0xFF, 7, 3, 0xFE, 0xFE, 0, 0xFE, 0xFE, 3, 0x10, 5, 0xFA] 0 =
        ⟨some [0xFE, 0xFE, 3, 0x10, 5, 0xFA], .none, [], [], 11⟩ ∧
      cycleOver .printed 20 [0xFF, 0xFF, 1, 5, 0xAA, 0xBB] 0 = ⟨none, .incompleteFrame, [], [], 6⟩ ∧
      cycleOver .printed 20 [0x00, 0xFE, 0xFE, 0x04] 0 = ⟨none, .readError, [0x00, 0xFE, 0xFE], [0x04], 0⟩ := by decide

theorem test_witness_FiniteStreamEndsCycle :
    InCycle (cycleAt .readingChatter [1]) ∧ InCycle (cycleAt .seekingFrame []) ∧
      (cycleAt .readingChatter [1]).cfg.preRead = none ∧ (cycleAt .readingChatter [1]).transport.again = [] :=
  ⟨⟨rfl, .inr rfl⟩, ⟨rfl, .inl rfl⟩, rfl, rfl⟩

theorem test_witness_EndlessChatter :
    let s := { cycleAt .seekingFrame [] with
      transport := { State.reset.transport with again := chatterFrame .printed 7 (List.replicate 255 0xFE) } }
    s.caller.waiting = true ∧ s.st = .seekingFrame ∧ s.cfg.preRead = none ∧
      (List.replicate 255 (0xFE : Byte)).length ≤ 255 ∧ s.transport.rx = [] ∧ s.transport.answers = [] ∧
      s.transport.again = chatterFrame .printed 7 (List.replicate 255 0xFE) :=
  ⟨rfl, rfl, rfl, Nat.le_of_eq List.length_replicate, rfl, rfl, rfl⟩

theorem test_witness_OtherPreRead :
    let s := { cycleAt .seekingFrame [] with cfg := { State.reset.cfg with preRead := some 3 } }
    s.cfg.preRead = some 3 ∧ InCycle s := ⟨rfl, rfl, .inl rfl⟩

theorem test_witness_DecodeWithoutFrame : State.reset.fvalid = false := rfl

theorem test_witness_DecodeMismatch :
    HoldsFrame (holding 1 [0x21]) (realFrame .printed 1 (0x21 :: [])) ∧ ([] : List Byte).length + 1 = (1 : Byte).toNat ∧
      (0x21 : Byte) ≠ 0x20 := ⟨holding_holds rfl, rfl, by decide⟩

theorem test_witness_DecodeShortLength :
    (HoldsFrame (holding 0 []) (realFrame .printed 0 []) ∧ ∀ cmd ∈ ([] : List Byte).head?, cmd = 0x20) ∧
      (HoldsFrame (holding 1 [0x20]) (realFrame .printed 1 [0x20]) ∧ ∀ cmd ∈ ([0x20] : List Byte).head?, cmd = 0x20) ∧
      HoldsFrame (holding 2 [0x20, 0xFA]) (realFrame .printed 2 [0x20, 0xFA]) ∧
      ∀ cmd ∈ ([0x20, 0xFA] : List Byte).head?, cmd = 0x20 :=
  ⟨⟨holding_holds rfl, by decide⟩, ⟨holding_holds rfl, by decide⟩, holding_holds rfl, by decide⟩

theorem test_witness_ListRows :
    HoldsFrame (holding 14 (0x20 :: (List.replicate 12 1 ++ [0xFA]))) (realFrame .printed 14 (0x20 :: (List.replicate 12 1 ++ [0xFA]))) ∧
      HoldsFrame (holding 10 (0x50 :: (List.replicate 8 1 ++ [0xFA])))
        (realFrame .printed 10 (0x50 :: (List.replicate 8 1 ++ [0xFA]))) := ⟨holding_holds rfl, holding_holds rfl⟩

theorem test_witness_PairRow :
    (0x51 : Byte) ≠ 0x50 ∧ HoldsFrame (holding 4 [0x51, 1, 2, 0xFA]) (realFrame .printed 4 [0x51, 1, 2, 0xFA]) :=
  ⟨by decide, holding_holds rfl⟩

theorem test_witness_ServoRow : HoldsFrame (holding 4 [0x50, 1, 2, 0xFA]) (realFrame .printed 4 [0x50, 1, 2, 0xFA]) :=
  holding_holds rfl

theorem test_witness_ByteRow : HoldsFrame (holding 3 [0x50, 1, 0xFA]) (realFrame .printed 3 [0x50, 1, 0xFA]) := holding_holds rfl

theorem test_witness_OtherRow :
    (WellFormed .printed (.decOther 5 0x20) = true ∧
        HoldsFrame (holding 5 [0x20, 0x7F, 1, 2, 0xFA]) (realFrame .printed 5 [0x20, 0x7F, 1, 2, 0xFA]) ∧
        (holding 5 [0x20, 0x7F, 1, 2, 0xFA]).cfg.otherLen = .firstByte) ∧
      WellFormed .printed (.decOther 255 0x20) = true ∧
      (∀ others : List Byte, others.length = 253 →
        HoldsFrame (withEmptyPolicy (holding 255 (0x20 :: 0x7F :: others))) (realFrame .printed 255 (0x20 :: 0x7F :: others))) ∧
      (withEmptyPolicy State.reset).cfg.otherLen = .empty :=
  ⟨⟨by decide, holding_holds rfl, rfl⟩, by decide, fun _ h => holding_holds_empty (by rw [List.length_cons, List.length_cons, h]; rfl), rfl⟩

/-- The pseudocode over the frames of V8. -/
theorem test_decodeOver :
    decodeOver .firstByte 0x35 [0xFE, 0xFE, 10, 0x35, 0, 1, 0xFF, 0xFE, 0x7F, 0xFF, 0x80, 0, 0xFA] =
        (.none, .listS16, [1, -2, 32767, -32768]) ∧
      decodeOver .firstByte 0x50 [0xFE, 0xFE, 4, 0x50, 1, 0xFF, 0xFA] = (.none, .s8, [-1]) ∧
      decodeOver .empty 0x20 [0xFE, 0xFE, 5, 0x20, 0x7F, 1, 2, 0xFA] = (.none, .empty, []) ∧
      decodeOver .firstByte 0x20 [0xFE, 0xFE, 0] = (.shortLength, .empty, []) := by decide

theorem test_witness_UnwrapSingle : 1 ≤ ({ State.reset with rcnt := 1 } : State).rcnt.toNat ∧ State.reset.rcnt.toNat = 0 := by
  decide

theorem test_witness_KeyMasks : (1 : Byte) ≠ 0 ∧ ((2 : Byte).toNat : Int) - 2 ≤ 0 ∧ ¬ ((3 : Byte).toNat : Int) - 2 ≤ 0 := by
  decide

theorem test_witness_DecodeOfEncode :
    WellFormed .printed (.decOther 255 0) = true ∧ WellFormed .printed (.hdrDesync [0xFF, 0xFE, 0]) = true ∧
      WellFormed .printed (.buildCommandPayload [.numbers [-1], .scalar (1 / 2)]) = true := ⟨by decide, by decide, rfl⟩

theorem test_witness_DecodedIsWellFormed : decode .printed (.key [2, 0x20]) = .ok (.decShort 2 (some 0x20)) := by decide

/-- `[[[]]]` nests too deep, `[[1/2]]` holds a non-integer (R154). -/
theorem test_witness_InadmissibleRequests :
    (13 ≤ (13 : BitVec 4).toNat ∧ Requested (feed [] [⟨13, .none⟩]) ⟨13, .none⟩ []) ∧
      (([] : List Byte).length ≠ 1 ∧ Requested (feed [] [⟨11, .bytes []⟩]) ⟨11, .bytes []⟩ []) ∧
      (([1, 2, 3] : List Byte).length ≠ 2 ∧ Requested (feed [] [⟨3, .bytes [1, 2, 3]⟩]) ⟨3, .bytes [1, 2, 3]⟩ []) ∧
      (.seq (.seq .nil .nil) ∈ itemsOf (.seq (.seq .nil .nil) .nil) ∧ .seq .nil ∈ itemsOf (.seq .nil .nil)) ∧
      .seq (.scalar (1 / 2) .nil) ∈ itemsOf (.seq (.scalar (1 / 2) .nil) .nil) ∧
      .scalar (1 / 2) ∈ itemsOf (.scalar (1 / 2) .nil) ∧ (1 / 2 : Rat).den ≠ 1 :=
  ⟨⟨by decide, feed_requested _ _ _⟩, ⟨by decide, feed_requested _ _ _⟩, ⟨by decide, feed_requested _ _ _⟩,
    ⟨.head _, .head _⟩, .head _, .head _, by norm_num⟩

theorem test_witness_OtherOperandKinds :
    Requested (feed [] [⟨7, .phys 1⟩]) ⟨7, .phys 1⟩ [] ∧ (∀ v, Operand.phys 1 ≠ .int v) ∧
      (∀ bs, Operand.int 1 ≠ .bytes bs) ∧ (∀ q, Operand.int 1 ≠ .phys q) ∧ (∀ ts, Operand.none ≠ .tokens ts) ∧
      Operand.int 1 ≠ .none :=
  ⟨feed_requested _ _ _, nofun, nofun, nofun, nofun, nofun⟩

theorem test_witness_TokenStreams :
    bracketed 0 [.openSeq, .scalar 1, .closeSeq] = true ∧ bracketed 0 [.closeSeq, .openSeq] = false ∧
      bracketed 0 [.openSeq] = false ∧ Requested (feed [] [⟨9, .tokens [.openSeq]⟩]) ⟨9, .tokens [.openSeq]⟩ [] ∧
      ∀ inner, .seq inner ∈ itemsOf (.seq .nil .nil) → ∀ i ∈ itemsOf inner, ∃ v : Int, i = .scalar v := by
  refine ⟨rfl, rfl, rfl, feed_requested _ _ _, fun inner h i hi => ?_⟩
  have : inner = .nil := by simpa [itemsOf] using h
  subst this
  simp [itemsOf] at hi

theorem test_witness_ResetLeavesTransport : ({} : Construction).preRead = none := rfl

/-- A consistent state that holds a frame and a result, with a request to decode it. -/
theorem test_witness_Consistent :
    let s := { holding 3 [0x20, 1, 0xFA] with
      rcnt := 1, rkind := .s8, res := ⟨0xFF80, 0, 0, 0, 0, 0⟩
      caller := { State.reset.caller with requests := [⟨11, .bytes [0x20]⟩] } }
    Consistent s ∧ s.cfg.preRead = none ∧ ∃ t, step s = .next t ∧ t.res.x0 = 1 := by
  refine ⟨⟨by decide, by decide, fun _ => ⟨3, [0x20, 1, 0xFA], rfl, ?_⟩, fun _ => rfl, fun h => ?_, fun h => ?_,
    fun h => ?_, ?_⟩, rfl, _, rfl, rfl⟩
  · exact holdsFrame_congr (s := holding 3 [0x20, 1, 0xFA]) rfl rfl rfl (holding_holds rfl)
  · cases h
  · cases h
  · exact absurd rfl h
  · exact ⟨rfl, by decide, by decide⟩

/-- A consistent state inside a read cycle. -/
theorem test_witness_Consistent_cycle : Consistent (cycleAt .readingChatter [5, 1]) := by
  refine ⟨rfl, by decide, fun h => ?_, fun h => ?_, fun _ => .inr rfl, fun _ => rfl, fun h => absurd rfl h, rfl⟩ <;> cases h

theorem test_witness_Operations :
    (∃ t, exec (.encodeInt16 40000) State.reset = .next t) ∧ (∃ t, exec .unwrapSingle State.reset = .next t) ∧
      (∃ t, exec (.decode 0) State.reset = .next t) ∧ ∃ t, exec (.hdrFrame 0) State.reset = .next t :=
  ⟨⟨_, rfl⟩, ⟨_, rfl⟩, ⟨_, rfl⟩, ⟨_, rfl⟩⟩

end Sys2Proof.Tests
end

/-! PROOF. The classes of a header read by match and mask (30_encoding.md R83). -/

namespace Sys2Proof.Proofs

/-- Two words joined are equal exactly when their halves are. -/
theorem append_eq_append_iff {n m : Nat} {a c : BitVec n} {b d : BitVec m} : a ++ b = c ++ d ↔ a = c ∧ b = d := by
  constructor
  · intro h
    have hb : b = d := by
      rw [← BitVec.setWidth_append_eq_right (a := a) (b := b), h, BitVec.setWidth_append_eq_right]
    subst hb
    exact ⟨(BitVec.append_left_inj b).mp h, rfl⟩
  · rintro ⟨rfl, rfl⟩
    rfl

/-- The header mask keeps the first two bytes and clears the third. -/
theorem header_and_mask (h0 h1 h2 : Byte) : (h0 ++ h1 ++ h2) &&& 0xFFFF00#24 = h0 ++ h1 ++ 0#8 := by
  change (h0 ++ h1 ++ h2) &&& (BitVec.allOnes (8 + 8) ++ 0#8) = _
  rw [BitVec.and_append, BitVec.and_allOnes, BitVec.and_zero]

/-- A header word equals a marker word under the mask exactly when its first two bytes are the marker's. -/
theorem header_masked_eq_iff {h0 h1 h2 m0 m1 : Byte} :
    (h0 ++ h1 ++ h2) &&& 0xFFFF00#24 = m0 ++ m1 ++ 0#8 ↔ h0 = m0 ∧ h1 = m1 := by
  rw [header_and_mask, BitVec.append_left_inj, append_eq_append_iff]

theorem decodeHeader_of_chatter_marker {k : Constants} {h0 h1 : Byte} (h2 : Byte)
    (h : h0 = k.hdrChat ∧ h1 = k.hdrChat) : decodeHeader k [h0, h1, h2] = .hdrChatter h2 := by
  simp only [decodeHeader, classify, if_pos h]

/-- The chatter marker is compared first, so a real frame's header must differ from it. -/
theorem decodeHeader_of_real_marker {k : Constants} {h0 h1 : Byte} (h2 : Byte)
    (hc : ¬ (h0 = k.hdrChat ∧ h1 = k.hdrChat)) (hr : h0 = k.hdrReal ∧ h1 = k.hdrReal) :
    decodeHeader k [h0, h1, h2] = .hdrFrame h2 := by
  simp only [decodeHeader, classify, if_neg hc, if_pos hr]

theorem decodeHeader_of_no_marker {k : Constants} {h0 h1 : Byte} (h2 : Byte)
    (hc : ¬ (h0 = k.hdrChat ∧ h1 = k.hdrChat)) (hr : ¬ (h0 = k.hdrReal ∧ h1 = k.hdrReal)) :
    decodeHeader k [h0, h1, h2] = .hdrDesync [h0, h1, h2] := by
  simp only [decodeHeader, classify, if_neg hc, if_neg hr]

theorem decodeHeader_short (k : Constants) {h : List Byte} (hl : h.length < 3) : decodeHeader k h = .hdrDesync h := by
  match h, hl with
  | [], _ | [_], _ | [_, _], _ => rfl

/-- Settles O18: under the mask a header word shows its first two bytes alone, and the printed markers differ. -/
theorem headerWordsClassify : Obligations.HeaderWordsClassify := by
  intro k hchat hreal
  have chatter_iff (h0 h1 h2 : Byte) :
      (h0 ++ h1 ++ h2) &&& 0xFFFF00#24 = 0xFFFF00#24 ↔ h0 = k.hdrChat ∧ h1 = k.hdrChat := by
    rw [hchat]
    exact header_masked_eq_iff (m0 := 0xFF) (m1 := 0xFF)
  have frame_iff (h0 h1 h2 : Byte) :
      (h0 ++ h1 ++ h2) &&& 0xFFFF00#24 = 0xFEFE00#24 ↔ h0 = k.hdrReal ∧ h1 = k.hdrReal := by
    rw [hreal]
    exact header_masked_eq_iff (m0 := 0xFE) (m1 := 0xFE)
  have markers_differ : k.hdrReal ≠ k.hdrChat := by rw [hchat, hreal]; decide
  refine ⟨fun h0 h1 h2 => ⟨fun hc => ?_, fun hf => ?_, fun hc hf => ?_⟩, fun h hl => decodeHeader_short k hl⟩
  · exact decodeHeader_of_chatter_marker h2 ((chatter_iff h0 h1 h2).mp hc)
  · have real := (frame_iff h0 h1 h2).mp hf
    exact decodeHeader_of_real_marker h2 (fun chat => markers_differ (real.1.symm.trans chat.1)) real
  · exact decodeHeader_of_no_marker h2 (mt (chatter_iff h0 h1 h2).mpr hc) (mt (frame_iff h0 h1 h2).mpr hf)

end Sys2Proof.Proofs

/-! PROOF. The integer codec (40_codec_integer.md R110 to R115): what each of its four operations answers. -/

namespace Sys2Proof.Proofs

open Sys2Proof.Machine Sys2Proof.Laws

theorem byteOf_toNat_cast {n : Int} (h : 0 ≤ n) (h' : n < 256) : ((byteOf n).toNat : Int) = n := by
  rw [byteOf_toNat h h', Int.toNat_of_nonneg h]

theorem endChecked_ok {α : Type} {o : Except Int α} {a : α} (h : o = .ok a) (reply : α → Reply) (s : State) :
    endChecked o reply s = .next (setReply (reply a) (clearError s)) := by
  rw [h, endChecked]

theorem endChecked_error {α : Type} {o : Except Int α} {v : Int} (h : o = .error v) (reply : α → Reply) (s : State) :
    endChecked o reply s = .next (raise .rangeError (.rangeError v) s) := by
  rw [h, endChecked]

theorem int8Bytes_of_inRange {v : Int} (h : -128 ≤ v ∧ v ≤ 127) : int8Bytes v = .ok [byteOf (v % 256)] :=
  if_neg (by omega)

theorem int8Bytes_of_outOfRange {v : Int} (h : v < -128 ∨ 127 < v) : int8Bytes v = .error v :=
  if_pos h

theorem int16Bytes_of_inRange {v : Int} (h : -32768 ≤ v ∧ v ≤ 32767) :
    int16Bytes v = .ok [byteOf (v % 65536 / 256), byteOf (v % 65536 % 256)] :=
  if_neg (by omega)

theorem int16Bytes_of_outOfRange {v : Int} (h : v < -32768 ∨ 32767 < v) : int16Bytes v = .error v :=
  if_pos h

theorem exec_encodeInt8 (v : Int) (s : State) : exec (.encodeInt8 v) s = endChecked (int8Bytes v) .bytes s := rfl

theorem exec_encodeInt16 (v : Int) (s : State) : exec (.encodeInt16 v) s = endChecked (int16Bytes v) .bytes s := rfl

theorem exec_decodeInt8 (b : Byte) (s : State) :
    exec (.decodeInt8 b) s = .next (setReply (.integer b.toInt) s) := by
  rw [← sext8_toInt]
  rfl

theorem exec_decodeInt16 (hi lo : Byte) (s : State) :
    exec (.decodeInt16 hi lo) s = .next (setReply (.integer (hi ++ lo).toInt) s) := by
  rw [← sext16_toInt]
  rfl

/-- Settles O4: the range check of `int8Bytes` decides which way `endChecked` ends. -/
theorem encodeInt8EncodesOrRaises : Obligations.EncodeInt8EncodesOrRaises := by
  intro s v
  refine ⟨fun inRange => ?_, fun outOfRange => ?_⟩
  · have answer := endChecked_ok (int8Bytes_of_inRange inRange) .bytes s
    exact ⟨_, _, byteOf_toNat_cast (by omega) (by omega), (exec_encodeInt8 v s).trans answer, rfl⟩
  · have answer := endChecked_error (int8Bytes_of_outOfRange outOfRange) .bytes s
    exact ⟨_, (exec_encodeInt8 v s).trans answer, rfl⟩

/-- Settles O5: the quotient and the remainder by 256 of `v mod 65536` are bytes, and the range check of `int16Bytes` decides
which way `endChecked` ends. -/
theorem encodeInt16EncodesOrRaises : Obligations.EncodeInt16EncodesOrRaises := by
  intro s v
  refine ⟨fun inRange => ?_, fun outOfRange => ?_⟩
  · have answer := endChecked_ok (int16Bytes_of_inRange inRange) .bytes s
    exact ⟨_, _, _, byteOf_toNat_cast (by omega) (by omega), byteOf_toNat_cast (by omega) (by omega),
      (exec_encodeInt16 v s).trans answer, rfl⟩
  · have answer := endChecked_error (int16Bytes_of_outOfRange outOfRange) .bytes s
    exact ⟨_, (exec_encodeInt16 v s).trans answer, rfl⟩

/-- Settles O6: `sext_8` is the two's complement value, which is the byte itself below 128 and 256 less from there on. -/
theorem decodeInt8GivesSignedByte : Obligations.DecodeInt8GivesSignedByte := by
  intro s b
  have byte_lt := b.isLt
  have value := BitVec.toInt_eq_toNat_cond b
  refine ⟨b.toInt, exec_decodeInt8 b s, rfl, ?_⟩
  split at value <;> omega

/-- Settles O7: `sext_16` is the two's complement value of the bytes joined high byte first, whose unsigned value is
`256 * hi + lo`. -/
theorem decodeInt16GivesSignedWord : Obligations.DecodeInt16GivesSignedWord := by
  intro s hi lo
  have word := append_toNat hi lo
  have word_lt := (hi ++ lo).isLt
  have value := BitVec.toInt_eq_toNat_cond (hi ++ lo)
  refine ⟨(hi ++ lo).toInt, exec_decodeInt16 hi lo s, rfl, ?_⟩
  split at value <;> omega

end Sys2Proof.Proofs

/-! PROOF. Payload assembly (42_codec_payload.md R150 to R153): `flatten` reads off the scalar tokens, and
`buildCommandPayload` is decided by the first inner integer that is no 16-bit value. -/

namespace Sys2Proof.Proofs

open Sys2Proof.Machine Sys2Proof.Laws

theorem scalarTokens_append (ts us : List Token) : scalarTokens (ts ++ us) = scalarTokens ts ++ scalarTokens us := by
  induction ts with
  | nil => rfl
  | cons t ts ih => cases t <;> simp [scalarTokens, ih]

/-- The recursion of `flattenSeq` on the tree meets the scalars in the order of the token form (R150, R151). -/
theorem flattenSeq_eq_scalarTokens (n : Nested) : flattenSeq n = scalarTokens (tokensOf n) := by
  induction n with
  | nil => rfl
  | scalar v rest ih => rw [flattenSeq, ih, tokensOf, scalarTokens]
  | seq inner rest ihInner ihRest =>
    rw [flattenSeq, ihInner, ihRest, tokensOf, scalarTokens, scalarTokens_append, scalarTokens]

theorem exec_flatten (n : Nested) (s : State) : exec (.flatten n) s = .next (setReply (.sequence (flattenSeq n)) s) := rfl

/-- Settles O14: `flattenSeq` gives the scalar tokens, and `flatten` writes nothing but its reply. -/
theorem flattenKeepsScalarTokens : Obligations.FlattenKeepsScalarTokens := by
  intro s n
  rw [exec_flatten, flattenSeq_eq_scalarTokens]
  rfl

@[simp] theorem flattenSeq_nestedOfList (xs : List Rat) : flattenSeq (nestedOfList xs) = xs := by
  induction xs with
  | nil => rfl
  | cons x xs ih => rw [nestedOfList, flattenSeq, ih]

/-- The first integer that has no 16-bit encoding (R153). -/
def firstOutOfRange (vs : List Int) : Option Int := vs.find? fun v => v < -32768 ∨ 32767 < v

/-- `RangeError` of the first integer out of range, or the value where every integer is in range (R153). -/
def unlessOutOfRange {α : Type} (vs : List Int) (a : α) : Except Int α := (firstOutOfRange vs).elim (.ok a) .error

theorem unlessOutOfRange_of_inRange {α : Type} {vs : List Int} (h : ∀ v ∈ vs, -32768 ≤ v ∧ v ≤ 32767) (a : α) :
    unlessOutOfRange vs a = .ok a := by
  have none_found : firstOutOfRange vs = none := by
    refine List.find?_eq_none.mpr fun v mem => ?_
    have := h v mem
    simp only [decide_eq_true_eq]
    omega
  rw [unlessOutOfRange, none_found, Option.elim_none]

theorem unlessOutOfRange_of_offender {α : Type} {before after : List Int} {v : Int}
    (hb : ∀ u ∈ before, -32768 ≤ u ∧ u ≤ 32767) (hv : v < -32768 ∨ 32767 < v) (a : α) :
    unlessOutOfRange (before ++ v :: after) a = .error v := by
  have found : firstOutOfRange (before ++ v :: after) = some v := by
    refine List.find?_eq_some_iff_append.mpr ⟨decide_eq_true hv, before, after, rfl, fun u mem => ?_⟩
    have := hb u mem
    simp only [Bool.not_eq_true', decide_eq_false_iff_not]
    omega
  rw [unlessOutOfRange, found, Option.elim_some]

theorem unlessOutOfRange_map {α β : Type} (vs : List Int) (a : α) (f : α → β) :
    (unlessOutOfRange vs a).map f = unlessOutOfRange vs (f a) := by
  rw [unlessOutOfRange, unlessOutOfRange]
  cases firstOutOfRange vs <;> rfl

/-- Checking one list and then another is checking their concatenation. -/
theorem unlessOutOfRange_bind {α β : Type} (vs ws : List Int) (a : α) (f : α → β) :
    (unlessOutOfRange vs a >>= fun x => unlessOutOfRange ws (f x)) = unlessOutOfRange (vs ++ ws) (f a) := by
  simp only [unlessOutOfRange, firstOutOfRange, List.find?_append]
  cases List.find? _ vs <;> rfl

/-- The two bytes of a 16-bit value, high byte first (R112). -/
def wordBytes (v : Int) : List Byte := [byteOf (v % 65536 / 256), byteOf (v % 65536 % 256)]

theorem wordBytes_map_toNat (v : Int) : (wordBytes v).map (fun b => (b.toNat : Rat)) = wordNumbers v := by
  have byte_value {n : Int} (h : 0 ≤ n) (h' : n < 256) : ((byteOf n).toNat : Rat) = (n : Rat) := by
    exact_mod_cast byteOf_toNat_cast h h'
  rw [wordBytes, List.map_cons, List.map_singleton, byte_value (by omega) (by omega), byte_value (by omega) (by omega),
    wordNumbers]

theorem int16Bytes_eq (v : Int) : int16Bytes v = unlessOutOfRange [v] (wordBytes v) := by
  by_cases h : v < -32768 ∨ 32767 < v
  · rw [int16Bytes_of_outOfRange h]
    exact (unlessOutOfRange_of_offender (before := []) (by simp) h _).symm
  · have inRange : -32768 ≤ v ∧ v ≤ 32767 := by omega
    rw [int16Bytes_of_inRange inRange, unlessOutOfRange_of_inRange (by simpa using inRange), wordBytes]

theorem encodeNumbers_cons (v : Int) (vs : List Int) :
    encodeNumbers (v :: vs) = int16Bytes v >>= fun bs => (encodeNumbers vs).map (bs ++ ·) := by
  rw [encodeNumbers]
  cases int16Bytes v with
  | error e => rfl
  | ok bs => cases encodeNumbers vs <;> rfl

theorem encodeNumbers_eq (vs : List Int) : encodeNumbers vs = unlessOutOfRange vs (vs.flatMap wordBytes) := by
  induction vs with
  | nil => rfl
  | cons v vs ih =>
    simp only [encodeNumbers_cons, int16Bytes_eq, ih, unlessOutOfRange_map, unlessOutOfRange_bind, List.singleton_append,
      List.flatMap_cons]

theorem payloadOf_scalar (v : Rat) (args : List Arg) :
    payloadOf (.scalar v :: args) = (payloadOf args).map (v :: ·) := by
  rw [payloadOf, payloadOf, spliceArgs]
  cases spliceArgs args <;> rfl

theorem payloadOf_numbers (vs : List Int) (args : List Arg) :
    payloadOf (.numbers vs :: args) =
      encodeNumbers vs >>= fun enc => (payloadOf args).map (enc.map (fun b => (b.toNat : Rat)) ++ ·) := by
  rw [payloadOf, payloadOf, spliceArgs]
  cases encodeNumbers vs with
  | error e => rfl
  | ok enc =>
    cases spliceArgs args with
    | error e => rfl
    | ok out => exact congrArg (fun l => Except.ok (l ++ flattenSeq out)) (flattenSeq_nestedOfList _)

/-- The payload is the spliced sequence, or the first offender of all inner lists read as one (R153). -/
theorem payloadOf_eq (args : List Arg) : payloadOf args = unlessOutOfRange (innerNumbers args) (splicedNumbers args) := by
  induction args with
  | nil => rfl
  | cons arg args ih =>
    cases arg with
    | scalar v => rw [payloadOf_scalar, ih, unlessOutOfRange_map, innerNumbers, splicedNumbers]
    | numbers vs =>
      have bytes_as_numbers :
          (vs.flatMap wordBytes).map (fun b => (b.toNat : Rat)) = vs.flatMap wordNumbers := by
        simp only [List.map_flatMap, wordBytes_map_toNat]
      simp only [payloadOf_numbers, encodeNumbers_eq, ih, unlessOutOfRange_map, unlessOutOfRange_bind, bytes_as_numbers,
        innerNumbers, splicedNumbers]

theorem exec_buildCommandPayload (args : List Arg) (s : State) :
    exec (.buildCommandPayload args) s =
      endChecked (unlessOutOfRange (innerNumbers args) (splicedNumbers args)) .sequence s := by
  rw [← payloadOf_eq]
  rfl

/-- Settles O16: the first inner integer out of range, or its absence, decides which way `endChecked` ends. -/
theorem buildCommandPayloadSplicesOrRaises : Obligations.BuildCommandPayloadSplicesOrRaises := by
  intro s args
  refine ⟨fun inRange => ?_, fun before after v args_split inRange outOfRange => ?_⟩
  · have answer := endChecked_ok (unlessOutOfRange_of_inRange inRange (splicedNumbers args)) .sequence s
    exact ⟨_, (exec_buildCommandPayload args s).trans answer, rfl⟩
  · have offender := unlessOutOfRange_of_offender (after := after) inRange outOfRange (splicedNumbers args)
    rw [← args_split] at offender
    exact ⟨_, (exec_buildCommandPayload args s).trans (endChecked_error offender .sequence s), rfl⟩

end Sys2Proof.Proofs

/-! PROOF. The Decoder's list, pair and byte rows (44_decoder.md R205 to R208): what a held frame's payload reads as,
what delivered values leave in the result registers, and the rule that `DECODE` runs on the frame. -/

namespace Sys2Proof.Proofs

open Sys2Proof.Machine Sys2Proof.Laws

/-! ### Result registers after values are stored in a row of them -/

theorem results_get_write_outside (r : Results) (i : Nat) (vs : List Int) {j : Nat} (room : i + vs.length ≤ 6)
    (outside : j < i ∨ i + vs.length ≤ j) : (r.write i vs).get j = r.get j := by
  induction vs generalizing r i with
  | nil => rfl
  | cons v vs ih =>
    rw [List.length_cons] at room outside
    rw [Results.write, ih _ _ (by omega) (by omega), results_get_set r i j _ (by omega), if_neg (by omega)]

theorem results_get_write_inside (r : Results) (i : Nat) (vs : List Int) {k : Nat} (room : i + vs.length ≤ 6)
    (hk : k < vs.length) : (r.write i vs).get (i + k) = some (BitVec.ofInt 16 vs[k]) := by
  induction vs generalizing r i k with
  | nil => exact absurd hk (Nat.not_lt_zero k)
  | cons v vs ih =>
    rw [List.length_cons] at room hk
    rw [Results.write]
    cases k with
    | zero =>
      rw [results_get_write_outside _ _ _ (by omega) (by omega), results_get_set r i _ _ (by omega)]
      exact if_pos rfl
    | succ k =>
      rw [show i + (k + 1) = i + 1 + k by omega, ih _ _ (by omega) (by omega)]
      rfl

/-- Delivered values are read back from the registers, each in 16 bits (10_state.md R24). -/
theorem resRead_deliver (vs : List Int) (kind : ResultKind) (s : State) {k : Nat} (room : vs.length ≤ 6)
    (hk : k < vs.length) : resRead k (deliver vs kind s) = .next (BitVec.ofInt 16 vs[k]) := by
  have counted : k < (deliver vs kind s).rcnt.toNat := by
    rw [deliver_rcnt, BitVec.toNat_ofNat, Nat.mod_eq_of_lt (by omega)]
    exact hk
  have stored : (deliver vs kind s).res.get k = some (BitVec.ofInt 16 vs[k]) := by
    have inside := results_get_write_inside s.res 0 vs (by omega) hk
    rwa [Nat.zero_add] at inside
  simp only [resRead, counted, if_true, stored]

theorem resRead_deliver_single (v : Int) (kind : ResultKind) (s : State) :
    resRead 0 (deliver [v] kind s) = .next (BitVec.ofInt 16 v) :=
  resRead_deliver [v] kind s (k := 0) (by simp) Nat.zero_lt_one

/-! ### The payload of a held frame -/

/-- Lane `k` of a list payload: bytes `2k`, high, and `2k + 1`, low (R205). -/
def lane (p : List Byte) (k : Nat) : Word16 := p.getD (2 * k) 0 ++ p.getD (2 * k + 1) 0

/-- The signed values of the first `n` lanes. -/
def laneValues (p : List Byte) (n : Nat) : List Int := (List.range n).map fun k => (lane p k).toInt

@[simp] theorem laneValues_length (p : List Byte) (n : Nat) : (laneValues p n).length = n := by simp [laneValues]

theorem resRead_laneValues (p : List Byte) (s : State) {n k : Nat} (room : n ≤ 6) (hk : k < n) :
    resRead k (deliver (laneValues p n) .listS16 s) = .next (lane p k) := by
  rw [resRead_deliver _ _ _ (by simpa using room) (by simpa using hk)]
  simp [laneValues]

section HeldFrame

variable {s : State} {c : Constants} {len cmd : Byte} {p after : List Byte}
  (held : HoldsFrame s (realFrame c len (cmd :: (p ++ after))))
include held

/-- `DECODE` for the frame's own command runs the rule that the frame's key selects (R202, R204). -/
theorem exec_decode_of_held (hlen : len ≠ 0) :
    exec (.decode cmd) s = runRule (selectRule s.cfg.constants len (some cmd)) s := by
  change execDecode cmd s = _
  rw [execDecode, if_pos held.1, holdsFrame_read held (i := 2) rfl, andThen_next, if_neg hlen,
    holdsFrame_read held (i := 3) rfl, andThen_next, if_pos rfl]

/-- Payload byte `k` stands at its offset in the buffer (20_memory.md R60). -/
theorem fbRead_payload {k : Nat} (hk : k < p.length) : fbRead (payloadOffset k) s = .next (p.getD k 0) := by
  refine holdsFrame_read held ?_
  have behind_header : (realFrame c len (cmd :: (p ++ after)))[payloadOffset k]? = (p ++ after)[k]? := by
    simp [realFrame, payloadOffset, Nat.add_comm 4 k]
  rw [behind_header, List.getElem?_append_left hk, List.getD_eq_getElem?_getD, List.getElem?_eq_getElem hk,
    Option.getD_some]

theorem payloadInt8_of_held {k : Nat} (hk : k < p.length) : payloadInt8 k s = .next (p.getD k 0).toInt := by
  rw [payloadInt8, fbRead_payload held hk, andThen_next, sext8_toInt]

theorem payloadInt16_of_held {k : Nat} (hk : k + 1 < p.length) :
    payloadInt16 k s = .next (p.getD k 0 ++ p.getD (k + 1) 0).toInt := by
  rw [payloadInt16, fbRead_payload held (Nat.lt_of_succ_lt hk), andThen_next, fbRead_payload held hk, andThen_next,
    sext16_toInt]

theorem payloadLanes_of_held (n k : Nat) (whole : 2 * (k + n) ≤ p.length) :
    payloadLanes n (2 * k) s = .next ((List.range' k n).map fun j => (lane p j).toInt) := by
  induction n generalizing k with
  | zero => rfl
  | succ n ih =>
    rw [payloadLanes, payloadInt16_of_held held (by omega), andThen_next, show 2 * k + 2 = 2 * (k + 1) by omega,
      ih (k + 1) (by omega), andThen_next, List.range'_succ]
    rfl

/-- A list rule delivers the lanes of its payload (R205). -/
theorem decodeLanes_of_held {bl : Int} {n : Nat} (lanes : (bl / 2).toNat = n) (room : n ≤ 6)
    (whole : 2 * n ≤ p.length) : decodeLanes bl s = .next (deliver (laneValues p n) .listS16 s) := by
  have values := payloadLanes_of_held held n 0 (by omega)
  rw [← List.range_eq_range'] at values
  simp only [decodeLanes, lanes, Config.resN, if_neg (Nat.not_lt.mpr room)]
  rw [show (0 : Nat) = 2 * 0 from rfl, values]
  rfl

/-- A byte rule delivers its payload byte, sign-extended (R207, R208). -/
theorem decodeByte_of_held {k : Nat} (hk : k < p.length) :
    decodeByte k s = .next (deliver [(p.getD k 0).toInt] .s8 s) := by
  rw [decodeByte, payloadInt8_of_held held hk, andThen_next]

theorem execDecS16_of_held (hp : 1 < p.length) :
    execDecS16 s = .next (deliver [(p.getD 0 0 ++ p.getD 1 0).toInt] .s16 s) := by
  rw [execDecS16, payloadInt16_of_held held hp, andThen_next]

end HeldFrame

/-! ### The rule of each declared length, under the printed constants (R204 to R208) -/

theorem selectRule_printed_14 (cmd : Byte) : selectRule .printed 14 (some cmd) = .list6 := rfl

theorem selectRule_printed_10 (cmd : Byte) : selectRule .printed 10 (some cmd) = .list4 := rfl

theorem selectRule_printed_4_servo : selectRule .printed 4 (some 0x50) = .s8Sec := rfl

theorem selectRule_printed_4_pair {cmd : Byte} (h : cmd ≠ 0x50) : selectRule .printed 4 (some cmd) = .s16 :=
  if_neg fun servo => h (Option.some.inj servo)

theorem selectRule_printed_3 (cmd : Byte) : selectRule .printed 3 (some cmd) = .s8 := rfl

/-- Settles O36: both list rules deliver the lanes that the payload reads as. -/
theorem listRowsDecodeEveryLane : Obligations.ListRowsDecodeEveryLane := by
  intro s cmd footer p printed
  refine ⟨fun hp held => ?_, fun hp held => ?_⟩
  · have row : execDecList6 s = .next (deliver (laneValues p 6) .listS16 s) := by
      rw [execDecList6, printed]
      exact decodeLanes_of_held held rfl (Nat.le_refl 6) (by omega)
    have dispatched := exec_decode_of_held held (by decide)
    rw [printed, selectRule_printed_14] at dispatched
    exact ⟨_, row, dispatched.trans row, fun k hk => resRead_laneValues p s (Nat.le_refl 6) hk, rfl⟩
  · have row : execDecList4 s = .next (deliver (laneValues p 4) .listS16 s) := by
      rw [execDecList4, printed]
      exact decodeLanes_of_held held rfl (by decide) (by omega)
    have dispatched := exec_decode_of_held held (by decide)
    rw [printed, selectRule_printed_10] at dispatched
    have kept (j : Nat) (beyond : 4 ≤ j) : (s.res.write 0 (laneValues p 4)).get j = s.res.get j :=
      results_get_write_outside s.res 0 _ (by simp) (.inr (by simpa using beyond))
    exact ⟨_, row, dispatched.trans row, fun k hk => resRead_laneValues p s (by decide) hk,
      Option.some.inj (kept 4 (by decide)), Option.some.inj (kept 5 (by decide)), rfl⟩

/-- Settles O37: `{p0, p1}` is the one lane of the pair row. -/
theorem pairRowDecodesSigned16 : Obligations.PairRowDecodesSigned16 := by
  intro s cmd p0 p1 footer printed notServo held
  have row : execDecS16 s = .next (deliver [(p0 ++ p1).toInt] .s16 s) :=
    execDecS16_of_held (p := [p0, p1]) (after := [footer]) held Nat.one_lt_two
  have dispatched := exec_decode_of_held (p := [p0, p1]) (after := [footer]) held (by decide)
  rw [printed, selectRule_printed_4_pair notServo] at dispatched
  have word : BitVec.ofInt 16 (p0 ++ p1).toInt = p0 ++ p1 := BitVec.ofInt_toInt
  rw [← word]
  exact ⟨_, row, dispatched.trans row, resRead_deliver_single _ _ s, rfl⟩

/-- Settles O38: payload byte 1 alone is read, and sign extension keeps its value. -/
theorem servoRowDecodesSecondByte : Obligations.ServoRowDecodesSecondByte := by
  intro s p0 p1 footer printed held
  have row : execDecS8Sec s = .next (deliver [p1.toInt] .s8 s) :=
    decodeByte_of_held (p := [p0, p1]) (after := [footer]) held (k := 1) Nat.one_lt_two
  have dispatched := exec_decode_of_held (p := [p0, p1]) (after := [footer]) held (by decide)
  rw [printed, selectRule_printed_4_servo] at dispatched
  have value : (p1.signExtend 16).toInt = p1.toInt := BitVec.toInt_signExtend_of_le (by decide)
  have low : -128 ≤ p1.toInt := BitVec.le_toInt p1
  have high : p1.toInt < 128 := BitVec.toInt_lt
  exact ⟨_, row, dispatched.trans row, resRead_deliver_single _ _ s, by omega, by omega, rfl⟩

/-- Settles O39: payload byte 0 is the one byte read. -/
theorem byteRowDecodesSigned8 : Obligations.ByteRowDecodesSigned8 := by
  intro s cmd p0 footer printed held
  have row : execDecS8 s = .next (deliver [p0.toInt] .s8 s) :=
    decodeByte_of_held (p := [p0]) (after := [footer]) held (k := 0) Nat.zero_lt_one
  have dispatched := exec_decode_of_held (p := [p0]) (after := [footer]) held (by decide)
  rw [printed, selectRule_printed_3] at dispatched
  exact ⟨_, row, dispatched.trans row, resRead_deliver_single _ _ s, rfl⟩

end Sys2Proof.Proofs

/-! PROOF. The encodings (30_encoding.md R83, R85, R95): decoding and encoding are inverse to each other on the well-formed
instructions, and the constants and the printed masks select the same dispatch row. -/

namespace Sys2Proof.Proofs

open Sys2Proof.Machine Sys2Proof.Laws

/-! ### Dispatch keys -/

theorem decodeKey_of_ne_zero (k : Constants) {len : Byte} (cmd : Byte) (rest : List Byte) (h : len ≠ 0) :
    decodeKey k (len :: cmd :: rest) = .ok (ruleInstr len cmd (selectRule k len (some cmd))) :=
  if_neg h

theorem decodeKey_without_command (k : Constants) {len : Byte} (h : len ≠ 0) : decodeKey k [len] = .error .keyLength :=
  if_neg h

theorem bodyLength_zero (k : Constants) : bodyLength k 0 = -k.lenOverhead := zero_sub _

theorem wellFormed_short_iff {k : Constants} {len : Byte} {cmd : Option Byte} :
    WellFormed k (.decShort len cmd) = true ↔ bodyLength k len ≤ 0 ∧ (cmd = none ↔ len = 0) := by
  cases cmd <;> simp [WellFormed, WellFormed.short]

/-- A body length that no row with a length of its own takes (R85). -/
def NoRowLength (k : Constants) (bl : Int) : Prop :=
  0 < bl ∧ bl ≠ k.blListA ∧ bl ≠ k.blListB ∧ bl ≠ k.blPair ∧ bl ≠ 1

theorem wellFormed_other_iff {k : Constants} {len cmd : Byte} :
    WellFormed k (.decOther len cmd) = true ↔ len ≠ 0 ∧ NoRowLength k (bodyLength k len) := by
  simp [WellFormed, WellFormed.other, NoRowLength, and_assoc]

theorem selectRule_short {k : Constants} {len : Byte} {cmd : Option Byte} (h : bodyLength k len ≤ 0) :
    selectRule k len cmd = .short :=
  if_pos h

theorem selectRule_other {k : Constants} {len : Byte} {cmd : Option Byte} (h : NoRowLength k (bodyLength k len)) :
    selectRule k len cmd = .other := by
  obtain ⟨pos, notA, notB, notPair, notOne⟩ := h
  rw [selectRule, if_neg (by omega), if_neg notA, if_neg notB, if_neg notPair, if_neg notOne]

/-- The selected row of a key with a command byte is well formed: each test of the dispatch is what `WellFormed` asks of
its row. -/
theorem wellFormed_ruleInstr {k : Constants} {len cmd : Byte} (hlen : len ≠ 0) :
    WellFormed k (ruleInstr len cmd (selectRule k len (some cmd))) = true := by
  unfold selectRule
  split_ifs with short listA listB pair servo one
  · exact wellFormed_short_iff.mpr ⟨short, iff_of_false (Option.some_ne_none cmd) hlen⟩
  · rfl
  · rfl
  · rfl
  · exact bne_iff_ne.mpr fun h => servo (congrArg some h)
  · rfl
  · exact wellFormed_other_iff.mpr ⟨hlen, by omega, listA, listB, pair, one⟩

/-! ### Rows under coherent constants -/

theorem bodyLength_declaredLength {k : Constants} {bl : Int} (low : 0 ≤ bl + k.lenOverhead)
    (high : bl + k.lenOverhead ≤ 255) : bodyLength k (declaredLength k bl) = bl := by
  rw [bodyLength, declaredLength, BitVec.toNat_ofInt]
  omega

section Coherent

variable {k : Constants} (coherent : Coherent k) {len : Byte}
include coherent

theorem selectRule_listA {cmd : Option Byte} (h : bodyLength k len = k.blListA) : selectRule k len cmd = .list6 := by
  have row := coherent.listA.1
  rw [selectRule, if_neg (by omega), if_pos h]

theorem selectRule_listB {cmd : Option Byte} (h : bodyLength k len = k.blListB) : selectRule k len cmd = .list4 := by
  have row := coherent.listB.1
  have notA := coherent.lists
  rw [selectRule, if_neg (by omega), if_neg (by omega), if_pos h]

theorem selectRule_pair {cmd : Option Byte} (h : bodyLength k len = k.blPair) :
    selectRule k len cmd = if cmd = some k.cmdIsServoEnable then .s8Sec else .s16 := by
  have row := coherent.pair.1
  have notA := coherent.pairA
  have notB := coherent.pairB
  rw [selectRule, if_neg (by omega), if_neg (by omega), if_neg (by omega), if_pos h]

theorem selectRule_one {cmd : Option Byte} (h : bodyLength k len = 1) : selectRule k len cmd = .s8 := by
  have rowA := coherent.listA.1
  have rowB := coherent.listB.1
  have rowPair := coherent.pair.1
  rw [selectRule, if_neg (by omega), if_neg (by omega), if_neg (by omega), if_neg (by omega), if_pos h]

/-- The key of a row with a length of its own decodes to the rule of that body length. -/
theorem decodeKey_declaredLength {bl : Int} (cmd : Byte) {r : DecodeRule} (pos : 1 ≤ bl)
    (fits : bl + k.lenOverhead ≤ 255)
    (rule : ∀ len, bodyLength k len = bl → selectRule k len (some cmd) = r) :
    decodeKey k [declaredLength k bl, cmd] = .ok (ruleInstr (declaredLength k bl) cmd r) := by
  have overhead := coherent.overhead
  have body : bodyLength k (declaredLength k bl) = bl := bodyLength_declaredLength (by omega) fits
  have nonzero : declaredLength k bl ≠ 0 := by
    intro zero
    rw [zero, bodyLength_zero] at body
    omega
  rw [decodeKey_of_ne_zero k cmd [] nonzero, rule _ body]

theorem decode_encode_decList6 (cmd : Byte) : decode k (encode k (.decList6 cmd)) = .ok (.decList6 cmd) :=
  decodeKey_declaredLength coherent cmd coherent.listA.1.le coherent.listA.2.2 fun _ => selectRule_listA coherent

theorem decode_encode_decList4 (cmd : Byte) : decode k (encode k (.decList4 cmd)) = .ok (.decList4 cmd) :=
  decodeKey_declaredLength coherent cmd coherent.listB.1.le coherent.listB.2.2 fun _ => selectRule_listB coherent

theorem decode_encode_decS8Sec : decode k (encode k .decS8Sec) = .ok .decS8Sec :=
  decodeKey_declaredLength coherent _ coherent.pair.1.le coherent.pair.2.2 fun _ h =>
    (selectRule_pair coherent h).trans (if_pos rfl)

theorem decode_encode_decS16 {cmd : Byte} (wf : WellFormed k (.decS16 cmd) = true) :
    decode k (encode k (.decS16 cmd)) = .ok (.decS16 cmd) := by
  have notServo : cmd ≠ k.cmdIsServoEnable := bne_iff_ne.mp wf
  exact decodeKey_declaredLength coherent cmd coherent.pair.1.le coherent.pair.2.2 fun _ h =>
    (selectRule_pair coherent h).trans (if_neg fun servo => notServo (Option.some.inj servo))

theorem decode_encode_decS8 (cmd : Byte) : decode k (encode k (.decS8 cmd)) = .ok (.decS8 cmd) := by
  have one_lt := coherent.listA.1
  have fits := coherent.listA.2.2
  exact decodeKey_declaredLength coherent cmd le_rfl (by omega) fun _ => selectRule_one coherent

end Coherent

theorem decode_encode_decShort {k : Constants} {len : Byte} {cmd : Option Byte}
    (wf : WellFormed k (.decShort len cmd) = true) :
    decode k (encode k (.decShort len cmd)) = .ok (.decShort len cmd) := by
  obtain ⟨short, command⟩ := wellFormed_short_iff.mp wf
  cases cmd with
  | none =>
    obtain rfl := command.mp rfl
    rfl
  | some cmd =>
    have nonzero : len ≠ 0 := fun h => nomatch command.mpr h
    exact (decodeKey_of_ne_zero k cmd [] nonzero).trans (by rw [selectRule_short short]; rfl)

theorem decode_encode_decOther {k : Constants} {len cmd : Byte} (wf : WellFormed k (.decOther len cmd) = true) :
    decode k (encode k (.decOther len cmd)) = .ok (.decOther len cmd) := by
  obtain ⟨nonzero, free⟩ := wellFormed_other_iff.mp wf
  exact (decodeKey_of_ne_zero k cmd [] nonzero).trans (by rw [selectRule_other free]; rfl)

/-! ### Headers -/

theorem wellFormed_desync_iff {k : Constants} {a b c : Byte} :
    WellFormed k (.hdrDesync [a, b, c]) = true ↔
      ¬ (a = k.hdrChat ∧ b = k.hdrChat) ∧ ¬ (a = k.hdrReal ∧ b = k.hdrReal) := by
  simp [WellFormed, WellFormed.desync, imp_iff_not_or]

theorem decodeHeader_of_wellFormed_desync {k : Constants} {h : List Byte} (wf : WellFormed k (.hdrDesync h) = true) :
    decodeHeader k h = .hdrDesync h := by
  match h, wf with
  | [], _ | [_], _ | [_, _], _ => rfl
  | [a, b, c], wf =>
    obtain ⟨chat, real⟩ := wellFormed_desync_iff.mp wf
    exact decodeHeader_of_no_marker c chat real

theorem wellFormed_decodeHeader (k : Constants) (h : List Byte) : WellFormed k (decodeHeader k h) = true := by
  match h with
  | [] | [_] | [_, _] => rfl
  | a :: b :: c :: _ =>
    simp only [decodeHeader, classify]
    split_ifs with chat real
    · rfl
    · rfl
    · exact wellFormed_desync_iff.mpr ⟨chat, real⟩

/-! ### Requests -/

theorem fitTokens_tokensOf {α : Type} {op : BitVec 4} {read : Nested → Option α} {make : α → Instr} (n : Nested) {a : α}
    (h : read n = some a) : fitTokens op (.tokens (tokensOf n)) read make = .ok (make a) := by
  simp only [fitTokens, tokensPort, parseTokens_tokensOf, h]

/-- Settles O44: each row's key has the body length by which the dispatch selects the row, the two markers differ, and the
tokens of a sequence parse back to it. -/
theorem decodeOfEncode : Obligations.DecodeOfEncode := by
  intro k i coherent wf
  cases i with
  | hdrChatter instr => exact congrArg Except.ok (decodeHeader_of_chatter_marker instr ⟨rfl, rfl⟩)
  | hdrFrame len =>
    exact congrArg Except.ok
      (decodeHeader_of_real_marker len (fun chat => coherent.markers chat.1) ⟨rfl, rfl⟩)
  | hdrDesync h => exact congrArg Except.ok (decodeHeader_of_wellFormed_desync wf)
  | decList6 cmd => exact decode_encode_decList6 coherent cmd
  | decList4 cmd => exact decode_encode_decList4 coherent cmd
  | decS8Sec => exact decode_encode_decS8Sec coherent
  | decS16 cmd => exact decode_encode_decS16 coherent wf
  | decS8 cmd => exact decode_encode_decS8 coherent cmd
  | decShort len cmd => exact decode_encode_decShort wf
  | decOther len cmd => exact decode_encode_decOther wf
  | flatten items => exact fitTokens_tokensOf items rfl
  | buildCommandPayload args => exact fitTokens_tokensOf _ (argsOf_nestedOfArgs args)
  | encodeInt8 | encodeInt16 | decodeInt8 | decodeInt16 | angleToInt | coordToInt | intToAngle | intToCoord | readFrame
  | decode | unwrapSingle => rfl

/-- The instructions that a request can select: the operations, of which `READFRAME` is that of one request (R95). -/
def SelectedBy (r : Request) : Instr → Prop
  | .hdrChatter _ | .hdrFrame _ | .hdrDesync _ | .decList6 _ | .decList4 _ | .decS8Sec | .decS16 _ | .decS8 _
  | .decShort _ _ | .decOther _ _ => False
  | .readFrame => r = ⟨10, .none⟩
  | _ => True

theorem op_of_readFrame {op : BitVec 4} (h : operations[op.toNat]? = some .readFrame) : op = 10 := by
  revert op
  decide

theorem selectedBy_of_decodeRequest {r : Request} {i : Instr} (h : decodeRequest r = .ok i) : SelectedBy r i := by
  unfold decodeRequest at h
  split at h
  · cases h
  · obtain ⟨_, _, rfl⟩ := fit_eq_ok h; trivial
  · obtain ⟨_, _, rfl⟩ := fit_eq_ok h; trivial
  · obtain ⟨_, _, rfl⟩ := fitByte_eq_ok h; trivial
  · obtain ⟨_, _, _, rfl⟩ := fitPair_eq_ok h; trivial
  · obtain ⟨_, _, rfl⟩ := fit_eq_ok h; trivial
  · obtain ⟨_, _, rfl⟩ := fit_eq_ok h; trivial
  · obtain ⟨_, _, rfl⟩ := fit_eq_ok h; trivial
  · obtain ⟨_, _, rfl⟩ := fit_eq_ok h; trivial
  · obtain ⟨_, _, _, _, rfl⟩ := fitTokens_eq_ok h; trivial
  · obtain ⟨_, _, _, _, rfl⟩ := fitTokens_eq_ok h; trivial
  · next code =>
    obtain ⟨port, rfl⟩ := fitNone_eq_ok h
    exact congrArg₂ Request.mk (op_of_readFrame code) port
  · obtain ⟨_, _, rfl⟩ := fitByte_eq_ok h; trivial
  · obtain ⟨_, rfl⟩ := fitNone_eq_ok h; trivial

theorem wellFormed_of_selectedBy (k : Constants) {r : Request} {i : Instr} (h : SelectedBy r i) :
    WellFormed k i = true := by
  cases i with
  | hdrChatter | hdrFrame | hdrDesync | decList6 | decList4 | decS8Sec | decS16 | decS8 | decShort | decOther =>
    exact h.elim
  | encodeInt8 | encodeInt16 | decodeInt8 | decodeInt16 | angleToInt | coordToInt | intToAngle | intToCoord | flatten
  | buildCommandPayload | readFrame | decode | unwrapSingle => rfl

/-- Settles O45: a key of declared length 0 has no payload because `LEN_OVERHEAD` is not negative; every other key's row and
every header's class are the ones whose tests passed. -/
theorem decodedIsWellFormed : Obligations.DecodedIsWellFormed := by
  intro k c i overhead h
  match c, h with
  | .header h, rfl => exact wellFormed_decodeHeader k h
  | .key (len :: rest), h =>
    by_cases zero : len = 0
    · subst zero
      cases h
      exact wellFormed_short_iff.mpr ⟨by rw [bodyLength_zero]; omega, iff_of_true rfl rfl⟩
    · match rest, h with
      | [], h => cases (decodeKey_without_command k zero).symm.trans h
      | cmd :: after, h =>
        cases (decodeKey_of_ne_zero k cmd after zero).symm.trans h
        exact wellFormed_ruleInstr zero
  | .request r, h => exact wellFormed_of_selectedBy k (selectedBy_of_decodeRequest h)

/-! ### The printed masks (R85) -/

/-- Under a mask a key shows its two bytes, each under its half of the mask. -/
theorem key_masked_eq_iff {len cmd m0 m1 v0 v1 : Byte} :
    ((len ++ cmd) &&& (m0 ++ m1)) = v0 ++ v1 ↔ len &&& m0 = v0 ∧ cmd &&& m1 = v1 := by
  rw [BitVec.and_append, append_eq_append_iff]

/-- The masks of the printed table as pairs of bytes. -/
theorem printedKeyRows_eq : printedKeyRows =
    [ ⟨.list6, 14#8 ++ 0#8, BitVec.allOnes 8 ++ 0#8⟩, ⟨.list4, 10#8 ++ 0#8, BitVec.allOnes 8 ++ 0#8⟩,
      ⟨.s8Sec, 4#8 ++ 0x50#8, BitVec.allOnes 8 ++ BitVec.allOnes 8⟩, ⟨.s16, 4#8 ++ 0#8, BitVec.allOnes 8 ++ 0#8⟩,
      ⟨.s8, 3#8 ++ 0#8, BitVec.allOnes 8 ++ 0#8⟩, ⟨.short, 0#8 ++ 0#8, 0xFC#8 ++ 0#8⟩,
      ⟨.other, 0#8 ++ 0#8, 0#8 ++ 0#8⟩ ] := rfl

/-- The mask of `DEC.SHORT` clears the two low bits of the length byte. -/
theorem short_masked_iff (len : Byte) : len &&& 0xFC#8 = 0#8 ↔ len.toNat < 4 := by
  revert len
  decide

theorem elim_find?_cons {α β : Type} (p : α → Bool) (a : α) (as : List α) (d : β) (f : α → β) :
    ((a :: as).find? p).elim d f = if p a = true then f a else (as.find? p).elim d f := by
  rw [List.find?_cons]
  cases p a <;> rfl

theorem printedKeyRule_eq_elim (key : BitVec 16) :
    printedKeyRule key = (printedKeyRows.find? fun r => key &&& r.mask == r.value).elim .other KeyRow.rule := by
  rw [printedKeyRule]
  cases printedKeyRows.find? fun r => key &&& r.mask == r.value <;> rfl

/-- The first match of the printed table, test by test. -/
theorem printedKeyRule_eq (len cmd : Byte) : printedKeyRule (len ++ cmd) =
    if len.toNat = 14 then .list6 else if len.toNat = 10 then .list4
    else if len.toNat = 4 ∧ cmd = 0x50#8 then .s8Sec else if len.toNat = 4 then .s16
    else if len.toNat = 3 then .s8 else if len.toNat < 4 then .short else .other := by
  have length_eq_iff (v : Byte) : len = v ↔ len.toNat = v.toNat := BitVec.toNat_inj.symm
  simp only [printedKeyRule_eq_elim, printedKeyRows_eq, elim_find?_cons, beq_iff_eq, key_masked_eq_iff,
    BitVec.and_allOnes, BitVec.and_zero, and_true, short_masked_iff, length_eq_iff, if_true]
  rfl

/-- The constants and the masks select the same rule (44_decoder.md R204): both test the body length `L - 2`, `DEC.SHORT`
first or last. -/
theorem selectRule_printed_eq (len cmd : Byte) :
    selectRule .printed len (some cmd) = printedKeyRule (len ++ cmd) := by
  have constants : selectRule .printed len (some cmd) =
      if (len.toNat : Int) - 2 ≤ 0 then .short else if (len.toNat : Int) - 2 = 12 then .list6
      else if (len.toNat : Int) - 2 = 8 then .list4
      else if (len.toNat : Int) - 2 = 2 then if some cmd = some 0x50#8 then .s8Sec else .s16
      else if (len.toNat : Int) - 2 = 1 then .s8 else .other := rfl
  rw [printedKeyRule_eq, constants]
  clear constants
  by_cases servo : cmd = 0x50#8
  · simp only [servo, and_true, if_true]
    revert len
    decide
  · simp only [Option.some.injEq, servo, and_false, if_false]
    revert len
    decide

/-- Settles O43: on a declared length other than 0 the decoder runs `selectRule`. -/
theorem keyMasksAgreeWithBodyLength : Obligations.KeyMasksAgreeWithBodyLength := by
  intro len cmd nonzero
  refine ⟨?_, ?_⟩
  · rw [← selectRule_printed_eq]
    exact decodeKey_of_ne_zero .printed cmd [] nonzero
  · rw [printedKeyRule_eq]
    grind

/-- Settles O46: thirteen closed words, each run through the decoder. -/
theorem writtenWordsDecode : Obligations.WrittenWordsDecode := by
  unfold Obligations.WrittenWordsDecode
  decide

end Sys2Proof.Proofs

/-! PROOF. What a step can answer, said once for the header rows, for step `CHAT` and for the caller's requests, and the
consistency of the registers, which every answer keeps (10_state.md R21 to R24). -/

namespace Sys2Proof.Proofs

open Sys2Proof.Machine Sys2Proof.Laws

/-! ### What is fetched -/

/-- The state with the caller's first request taken from its list (00_scope.md R8). -/
def takeRequest (rest : List Request) (s : State) : State := { s with caller := { s.caller with requests := rest } }

theorem step_of_request {s : State} {r : Request} {rest : List Request} {i : Instr} (requested : Requested s r rest)
    (h : decodeRequest r = .ok i) : step s = exec i (takeRequest rest s) := by
  have fetched : fetch s = .instr i (takeRequest rest s) := by
    simp only [fetch_outside requested.1, fetchRequest, requested.2, h, takeRequest]
  rw [step, fetched]

theorem step_of_rejected {s : State} {r : Request} {rest : List Request} {why : Reject} (requested : Requested s r rest)
    (h : decodeRequest r = .error why) : step s = .refused (.notAnInstruction why) := by
  have fetched : fetch s = .reject why := by
    simp only [fetch_outside requested.1, fetchRequest, requested.2, h]
  rw [step, fetched]

theorem step_idle {s : State} (outside : ¬ InCycle s) (none : s.caller.requests = []) : step s = .next s := by
  have fetched : fetch s = .idle := by simp only [fetch_outside outside, fetchRequest, none]
  rw [step, fetched]

theorem step_seeking {s : State} (hw : s.caller.waiting = true) (hs : s.st = .seekingFrame) :
    step s = exec (decodeHeader s.cfg.constants (rxTake 3 s.transport)) (rxRead 3 s).2 := by
  rw [step, fetch_seeking hw hs]

theorem step_chatter {s : State} (hw : s.caller.waiting = true) (hs : s.st = .readingChatter) : step s = chatStep s := by
  rw [step, fetch_chatter hw hs]

/-- Every way in which a step answers: an idle one, a request, a header, step `CHAT`. -/
theorem step_cases {s t : State} (h : step s = .next t) :
    (s.caller.waiting = true ∧ s.st = .seekingFrame ∧
      exec (decodeHeader s.cfg.constants (rxTake 3 s.transport)) (rxRead 3 s).2 = .next t) ∨
    (s.caller.waiting = true ∧ s.st = .readingChatter ∧ chatStep s = .next t) ∨
    (¬ InCycle s ∧ (t = s ∨ ∃ r rest i, s.caller.requests = r :: rest ∧ decodeRequest r = .ok i ∧
      exec i (takeRequest rest s) = .next t)) := by
  by_cases inCycle : InCycle s
  · obtain ⟨hw, hs | hs⟩ := inCycle
    · exact .inl ⟨hw, hs, (step_seeking hw hs).symm.trans h⟩
    · exact .inr (.inl ⟨hw, hs, (step_chatter hw hs).symm.trans h⟩)
  · refine .inr (.inr ⟨inCycle, ?_⟩)
    cases requests : s.caller.requests with
    | nil =>
      cases (step_idle inCycle requests).symm.trans h
      exact .inl rfl
    | cons r rest =>
      cases decoded : decodeRequest r with
      | ok i => exact .inr ⟨r, rest, i, rfl, decoded, (step_of_request ⟨inCycle, requests⟩ decoded).symm.trans h⟩
      | error why => cases (step_of_rejected ⟨inCycle, requests⟩ decoded).symm.trans h

/-! ### What the header rows answer -/

/-- The state after a whole frame has arrived (43_framereader.md R176). -/
def storedFrame (len : Byte) (body : List Byte) (s : State) : State :=
  endCycle .frameFound (clearError
    { s with
      fb := (s.fb.writeBytes 0 [s.cfg.constants.hdrReal, s.cfg.constants.hdrReal, len]).writeBytes 3 body
      flen := BitVec.ofNat 9 (3 + len.toNat)
      fvalid := true })

theorem exec_hdrChatter_eq_next {instr : Byte} {s t : State} (h : exec (.hdrChatter instr) s = .next t) :
    s.cfg.preRead = none ∧ t = setSeq .readingChatter (countSkipped 3 s) := by
  obtain ⟨admitted, h⟩ := withoutPreRead_eq_next h
  cases h
  exact ⟨admitted, rfl⟩

theorem exec_hdrDesync_eq_next {bytes : List Byte} {s t : State} (h : exec (.hdrDesync bytes) s = .next t) :
    s.cfg.preRead = none ∧ t = failDesync bytes s := by
  obtain ⟨admitted, h⟩ := withoutPreRead_eq_next h
  cases h
  exact ⟨admitted, rfl⟩

theorem exec_readFrame_eq_next {s t : State} (h : exec .readFrame s = .next t) :
    s.cfg.preRead = none ∧ t = startCycle s := by
  obtain ⟨admitted, h⟩ := withoutPreRead_eq_next h
  cases h
  exact ⟨admitted, rfl⟩

theorem exec_hdrFrame_cases {len : Byte} {s t : State} (h : exec (.hdrFrame len) s = .next t) :
    s.cfg.preRead = none ∧ ∃ r, r = rxReadCounted len.toNat s ∧
      (r.1.length < len.toNat ∧ t = failIncomplete r.2 ∨ r.1.length = len.toNat ∧ t = storedFrame len r.1 r.2) := by
  obtain ⟨admitted, short | ⟨whole, h⟩⟩ := execHdrFrame_cases h
  · exact ⟨admitted, _, rfl, .inl short⟩
  · exact ⟨admitted, _, rfl, .inr ⟨whole, (storeFrame_eq_next h).2⟩⟩

/-- Every way in which step `SEEK` answers, after the header read (R172 to R178). -/
theorem seek_cases {k : Constants} {bytes : List Byte} {s t : State} (three : bytes.length ≤ 3)
    (h : exec (decodeHeader k bytes) s = .next t) :
    (bytes.length = 3 ∧ t = setSeq .readingChatter (countSkipped 3 s)) ∨
    (∃ (len : Byte) (r : List Byte × State), r = rxReadCounted len.toNat s ∧
      (r.1.length < len.toNat ∧ t = failIncomplete r.2 ∨ r.1.length = len.toNat ∧ t = storedFrame len r.1 r.2)) ∨
    t = failDesync bytes s := by
  obtain ⟨instr, decoded, whole⟩ | ⟨len, decoded, -⟩ | decoded := decodeHeader_cases (k := k) three
  · rw [decoded] at h
    exact .inl ⟨whole, (exec_hdrChatter_eq_next h).2⟩
  · rw [decoded] at h
    exact .inr (.inl ⟨len, (exec_hdrFrame_cases h).2⟩)
  · rw [decoded] at h
    exact .inr (.inr (exec_hdrDesync_eq_next h).2)

/-! ### What the operations answer -/

/-- The values that a decode rule can deliver, by the shape of its result (44_decoder.md R205 to R209). -/
def RuleValues (k : Constants) (vs : List Int) : ResultKind → Prop
  | .empty => False
  | .listS16 => vs.length ≤ 6 ∧ (vs.length = (k.blListA / 2).toNat ∨ vs.length = (k.blListB / 2).toNat)
  | .s16 => ∃ v, vs = [v]
  | .s8 => ∃ b : Byte, vs = [b.toInt]

/-- How a decode rule ends: with a result of one of the shapes, or with an empty one. -/
inductive RuleEnds (s : State) : State → Prop
  | delivered {vs : List Int} {kind : ResultKind} : RuleValues s.cfg.constants vs kind → RuleEnds s (deliver vs kind s)
  | emptied (why : ErrKind) : RuleEnds s (emptyResult why s)

theorem ruleEnds_of_decodeByte {k : Nat} {s t : State} (h : decodeByte k s = .next t) : RuleEnds s t := by
  obtain ⟨b, -, rfl⟩ := decodeByte_eq_next h
  exact .delivered (kind := .s8) ⟨b, by rw [sext8_toInt]⟩

theorem ruleEnds_of_decodeLanes {bl : Int} {s t : State}
    (row : bl = s.cfg.constants.blListA ∨ bl = s.cfg.constants.blListB) (h : decodeLanes bl s = .next t) :
    RuleEnds s t := by
  obtain ⟨room, vs, lanes, rfl⟩ := decodeLanes_eq_next h
  rw [← payloadLanes_length lanes] at room
  refine .delivered ⟨room, row.imp ?_ ?_⟩ <;> exact fun eq => eq ▸ payloadLanes_length lanes

theorem ruleEnds_of_runRule {r : DecodeRule} {s t : State} (h : runRule r s = .next t) : RuleEnds s t := by
  cases r with
  | list6 => exact ruleEnds_of_decodeLanes (.inl rfl) h
  | list4 => exact ruleEnds_of_decodeLanes (.inr rfl) h
  | s8Sec => exact ruleEnds_of_decodeByte h
  | s16 =>
    obtain ⟨v, -, h⟩ := andThen_eq_next h
    cases h
    exact .delivered (kind := .s16) ⟨v, rfl⟩
  | s8 => exact ruleEnds_of_decodeByte h
  | short =>
    cases h
    exact .emptied _
  | other =>
    change execDecOther s = .next t at h
    unfold execDecOther at h
    split at h
    · exact ruleEnds_of_decodeByte h
    · cases h
      exact .emptied _

theorem ruleEnds_of_decode {expected : Byte} {s t : State} (h : exec (.decode expected) s = .next t) : RuleEnds s t := by
  obtain ⟨r, h⟩ | ⟨why, rfl⟩ := execDecode_cases h
  · exact ruleEnds_of_runRule h
  · exact .emptied why

/-- How an operation that checks a range ends (60_exceptions.md R231). -/
inductive CheckedEnds (s : State) : State → Prop
  | encoded (r : Reply) : CheckedEnds s (setReply r (clearError s))
  | rangeError (v : Int) : CheckedEnds s (raise .rangeError (.rangeError v) s)

theorem checkedEnds_of_endChecked {α : Type} {o : Except Int α} {reply : α → Reply} {s t : State}
    (h : endChecked o reply s = .next t) : CheckedEnds s t := by
  obtain ⟨a, -, answer⟩ | ⟨v, -, answer⟩ := endChecked_next o reply s
  · cases answer.symm.trans h
    exact .encoded _
  · cases answer.symm.trans h
    exact .rangeError v

theorem exec_unwrapSingle_eq_next {s t : State} (h : exec .unwrapSingle s = .next t) : ∃ r, t = setReply r s := by
  change execUnwrapSingle s = .next t at h
  unfold execUnwrapSingle at h
  split at h
  · obtain ⟨v, -, h⟩ := andThen_eq_next h
    cases h
    exact ⟨_, rfl⟩
  · cases h
    exact ⟨_, rfl⟩

/-- How an operation of the caller ends; `READFRAME` alone starts a cycle. -/
inductive OperationEnds (i : Instr) (s : State) : State → Prop
  | replied (r : Reply) : OperationEnds i s (setReply r s)
  | checked {t : State} : CheckedEnds s t → OperationEnds i s t
  | decoded {t : State} : RuleEnds s t → OperationEnds i s t
  | started : i = .readFrame → OperationEnds i s (startCycle s)

theorem operationEnds_of_exec {r : Request} {i : Instr} {s t : State} (selected : SelectedBy r i) (h : exec i s = .next t) :
    OperationEnds i s t := by
  cases i with
  | encodeInt8 | encodeInt16 | buildCommandPayload => exact .checked (checkedEnds_of_endChecked h)
  | decodeInt8 | decodeInt16 | angleToInt | coordToInt | intToAngle | intToCoord | flatten =>
    cases h
    exact .replied _
  | unwrapSingle =>
    obtain ⟨r, rfl⟩ := exec_unwrapSingle_eq_next h
    exact .replied r
  | decode => exact .decoded (ruleEnds_of_decode h)
  | readFrame =>
    obtain ⟨-, rfl⟩ := exec_readFrame_eq_next h
    exact .started rfl
  | hdrChatter | hdrFrame | hdrDesync | decList6 | decList4 | decS8Sec | decS16 | decS8 | decShort | decOther =>
    exact selected.elim

/-! ### Consistency of the registers -/

theorem no_frame_inCycle {s : State} (consistent : Consistent s) (cycle : InCycle s) : s.fvalid = false := by
  refine Bool.eq_false_iff.mpr fun valid => ?_
  have found := consistent.found valid
  obtain ⟨-, seeking | chatter⟩ := cycle
  · cases seeking.symm.trans found
  · cases chatter.symm.trans found

/-- Nothing that consistency speaks of is changed, but for an error without offending bytes. -/
theorem consistent_of_sameRegisters {s : State} (consistent : Consistent s) {err : ErrKind} {errN : BitVec 2}
    {skipped : BitVec Config.skipW} {transport : Transport} {caller : Caller}
    (waiting : caller.waiting = s.caller.waiting) (offending : errN ≠ 0 → err = .readError) :
    Consistent { s with err := err, errN := errN, skipped := skipped, transport := transport, caller := caller } where
  memory := consistent.memory
  length := consistent.length
  frame := consistent.frame
  found := consistent.found
  waiting h := consistent.waiting (waiting.symm.trans h)
  chatter h := waiting.trans (consistent.chatter h)
  offending := offending
  result := consistent.result

/-- Without a frame the buffer's contents matter no more than in their form. -/
theorem consistent_of_noFrame {t : State} (memory : Memory.wf t.fb = true) (length : t.flen.toNat ≤ Config.fbMax)
    (noFrame : t.fvalid = false)
    (waiting : t.caller.waiting = true → t.st = .seekingFrame ∨ t.st = .readingChatter)
    (chatter : t.st = .readingChatter → t.caller.waiting = true) (offending : t.errN ≠ 0 → t.err = .readError)
    (result : ResultShape t) : Consistent t where
  memory := memory
  length := length
  frame valid := absurd valid (Bool.eq_false_iff.mp noFrame)
  found valid := absurd valid (Bool.eq_false_iff.mp noFrame)
  waiting := waiting
  chatter := chatter
  offending := offending
  result := result

theorem resultShape_deliver {s : State} {vs : List Int} {kind : ResultKind}
    (values : RuleValues s.cfg.constants vs kind) : ResultShape (deliver vs kind s) := by
  cases kind with
  | empty => exact values.elim
  | listS16 =>
    obtain ⟨room, row⟩ := values
    have counted : (BitVec.ofNat 3 vs.length).toNat = vs.length := by rw [BitVec.toNat_ofNat]; omega
    exact ⟨by rw [deliver_rcnt, counted]; exact room, by rw [deliver_rcnt, counted]; exact row⟩
  | s16 =>
    obtain ⟨v, rfl⟩ := values
    exact rfl
  | s8 =>
    obtain ⟨b, rfl⟩ := values
    have low := BitVec.le_toInt b
    have high := BitVec.toInt_lt (x := b)
    have stored : (deliver [b.toInt] .s8 s).res.x0.toInt = b.toInt := by
      change (BitVec.ofInt 16 b.toInt).toInt = b.toInt
      rw [BitVec.toInt_ofInt]
      exact Int.bmod_eq_of_le (by omega) (by omega)
    exact ⟨rfl, by rw [stored]; omega, by rw [stored]; omega⟩

theorem consistent_ruleEnds {s t : State} (consistent : Consistent s) (ends : RuleEnds s t) : Consistent t := by
  cases ends with
  | delivered values =>
    exact consistent_of_noFrame consistent.memory consistent.length rfl consistent.waiting consistent.chatter
      (fun h => absurd rfl h) (resultShape_deliver values)
  | emptied why =>
    exact consistent_of_noFrame consistent.memory consistent.length rfl consistent.waiting consistent.chatter
      (fun h => absurd rfl h) rfl

theorem consistent_checkedEnds {s t : State} (consistent : Consistent s) (ends : CheckedEnds s t) : Consistent t := by
  cases ends <;> exact consistent_of_sameRegisters consistent rfl fun h => absurd rfl h

theorem consistent_operationEnds {i : Instr} {s t : State} (consistent : Consistent s) (ends : OperationEnds i s t) :
    Consistent t := by
  cases ends with
  | replied r => exact consistent_of_sameRegisters consistent rfl consistent.offending
  | checked ends => exact consistent_checkedEnds consistent ends
  | decoded ends => exact consistent_ruleEnds consistent ends
  | started =>
    exact consistent_of_noFrame rfl (Nat.zero_le _) rfl (fun _ => .inl rfl) (fun h => nomatch h)
      (fun h => absurd rfl h) consistent.result

/-- A failed cycle leaves consistent registers, whatever the stream and the count have become. -/
theorem consistent_failIncomplete {s : State} (result : ResultShape s) : Consistent (failIncomplete s) :=
  consistent_of_noFrame rfl (Nat.zero_le _) rfl (fun h => nomatch h) (fun h => nomatch h) (fun h => absurd rfl h) result

theorem consistent_failDesync {s : State} {bytes : List Byte} (result : ResultShape s) : Consistent (failDesync bytes s) :=
  consistent_of_noFrame rfl (Nat.zero_le _) rfl (fun h => nomatch h) (fun h => nomatch h) (fun _ => rfl) result

theorem holdsFrame_storedFrame {s : State} {len : Byte} {body : List Byte} (whole : body.length = len.toNat) :
    HoldsFrame (storedFrame len body s) (realFrame s.cfg.constants len body) :=
  holdsFrame_of_stored whole (s := s) rfl rfl rfl

theorem storedFrame_flen (len : Byte) (body : List Byte) (s : State) :
    (storedFrame len body s).flen.toNat = 3 + len.toNat := by
  have byte := len.isLt
  change (BitVec.ofNat 9 (3 + len.toNat)).toNat = _
  rw [BitVec.toNat_ofNat]
  omega

theorem consistent_storedFrame {s : State} {len : Byte} {body : List Byte} (memory : Memory.wf s.fb = true)
    (whole : body.length = len.toNat) (result : ResultShape s) : Consistent (storedFrame len body s) where
  memory := by
    have byte := len.isLt
    refine wf_writeBytes _ _ _ ?_ (wf_writeBytes _ _ _ ?_ memory)
    · simp only [Config.fbMax]; omega
    · simp only [Config.fbMax, List.length_cons, List.length_nil]; omega
  length := by
    have byte := len.isLt
    rw [storedFrame_flen]
    simp only [Config.fbMax]
    omega
  frame _ := ⟨len, body, whole, holdsFrame_storedFrame whole⟩
  found _ := rfl
  waiting h := nomatch h
  chatter h := nomatch h
  offending h := absurd rfl h
  result := result

/-- A counted read keeps what the registers say. -/
theorem consistent_rxReadCounted {s : State} (consistent : Consistent s) (n : Nat) :
    Consistent (rxReadCounted n s).2 := by
  rw [rxReadCounted_snd]
  exact consistent_of_sameRegisters consistent rfl consistent.offending

theorem consistent_seek {s t : State} (consistent : Consistent s) (waiting : s.caller.waiting = true)
    (seeking : s.st = .seekingFrame)
    (h : exec (decodeHeader s.cfg.constants (rxTake 3 s.transport)) (rxRead 3 s).2 = .next t) : Consistent t := by
  have read : Consistent (rxRead 3 s).2 := consistent_of_sameRegisters consistent rfl consistent.offending
  obtain ⟨-, rfl⟩ | ⟨len, r, rfl, ⟨-, rfl⟩ | ⟨whole, rfl⟩⟩ | rfl := seek_cases (rxTake_length_le 3 s.transport) h
  · have noFrame := no_frame_inCycle consistent ⟨waiting, .inl seeking⟩
    exact consistent_of_noFrame consistent.memory consistent.length noFrame (fun _ => .inr rfl)
      (fun _ => waiting) consistent.offending consistent.result
  · exact consistent_failIncomplete (consistent_rxReadCounted read _).result
  · exact consistent_storedFrame (consistent_rxReadCounted read _).memory whole (consistent_rxReadCounted read _).result
  · exact consistent_failDesync consistent.result

theorem consistent_chatStep {s t : State} (consistent : Consistent s) (waiting : s.caller.waiting = true)
    (chatter : s.st = .readingChatter) (h : chatStep s = .next t) : Consistent t := by
  have read : Consistent (countSkipped 1 (rxRead 1 s).2) :=
    consistent_of_sameRegisters consistent rfl consistent.offending
  obtain ⟨-, ⟨-, rfl⟩ | ⟨n, r, -, rfl, ⟨-, rfl⟩ | ⟨-, rfl⟩⟩⟩ := chatStep_cases h
  · exact consistent_failIncomplete consistent.result
  · exact consistent_failIncomplete (consistent_rxReadCounted read _).result
  · have body := consistent_rxReadCounted read n.toNat
    have noFrame := no_frame_inCycle body ⟨by rw [rxReadCounted_snd]; exact waiting, by
      rw [rxReadCounted_snd]; exact .inr chatter⟩
    exact consistent_of_noFrame body.memory body.length noFrame (fun _ => .inl rfl) (fun h => nomatch h) body.offending
      body.result

/-- Settles O53: every answer of a step is one of `seek_cases`, `chatStep_cases` and `OperationEnds`, and each of them keeps
the registers consistent. -/
theorem stepKeepsConsistent : Obligations.StepKeepsConsistent := by
  intro s t consistent h
  obtain ⟨waiting, seeking, h⟩ | ⟨waiting, chatter, h⟩ | ⟨-, rfl | ⟨r, rest, i, -, decoded, h⟩⟩ := step_cases h
  · exact consistent_seek consistent waiting seeking h
  · exact consistent_chatStep consistent waiting chatter h
  · exact consistent
  · have taken : Consistent (takeRequest rest s) := consistent_of_sameRegisters consistent rfl consistent.offending
    exact consistent_operationEnds taken (operationEnds_of_exec (selectedBy_of_decodeRequest decoded) h)

end Sys2Proof.Proofs

/-! PROOF. The FrameReader (43_framereader.md): the read of a counted body in terms of the transport alone, what the request,
the header rows and step `CHAT` answer, and the statements about one of its steps. -/

namespace Sys2Proof.Proofs

open Sys2Proof.Machine Sys2Proof.Laws

/-! ### Reads -/

/-- The bytes that a counted read returns (20_memory.md R53). -/
def countedBytes (n : Nat) (t : Transport) : List Byte := if n = 0 then [] else rxTake n t

/-- The transport after a counted read. -/
def countedTransport (n : Nat) (t : Transport) : Transport := if n = 0 then t else rxAdvance n t

/-- A counted read sees and changes the transport alone. -/
theorem rxReadCounted_eq (n : Nat) (s : State) :
    rxReadCounted n s = (countedBytes n s.transport, { s with transport := countedTransport n s.transport }) := by
  unfold rxReadCounted countedBytes countedTransport
  split <;> rfl

theorem countedBytes_length_le (n : Nat) (t : Transport) : (countedBytes n t).length ≤ n := by
  unfold countedBytes
  split
  · exact Nat.zero_le n
  · exact rxTake_length_le n t

/-- The bytes consumed between two states of the transport; over a stream that ends they are the next of it, in order
(R51). -/
structure Consumes (used : List Byte) (t t' : Transport) : Prop where
  tx : t'.tx = t.tx
  again : t'.again = t.again
  cursor : t'.cursor = t.cursor + used.length
  stream : t.again = [] → t.rx = used ++ t'.rx

theorem consumes_nothing (t : Transport) : Consumes [] t t := ⟨rfl, rfl, rfl, fun _ => rfl⟩

theorem consumes_trans {used more : List Byte} {t t' t'' : Transport} (first : Consumes used t t')
    (second : Consumes more t' t'') : Consumes (used ++ more) t t'' where
  tx := second.tx.trans first.tx
  again := second.again.trans first.again
  cursor := by rw [second.cursor, first.cursor, List.length_append, Nat.add_assoc]
  stream ends := by rw [first.stream ends, second.stream (first.again.trans ends), List.append_assoc]

/-- A read over listed bytes draws on nothing else. -/
theorem rxAvailable_listed {n : Nat} {t : Transport} (h : t.again = [] ∨ n ≤ t.rx.length) : rxAvailable n t = t.rx := by
  rcases h with ends | enough
  · simp [rxAvailable, ends]
  · rw [rxAvailable, if_neg (Nat.not_lt.mpr enough)]

theorem consumes_rxAdvance (n : Nat) (t : Transport) : Consumes (rxTake n t) t (rxAdvance n t) where
  tx := rfl
  again := rfl
  cursor := rfl
  stream ends := (rxAvailable_listed (.inl ends)).symm.trans (rxTake_append_rest n t).symm

theorem consumes_counted (n : Nat) (t : Transport) : Consumes (countedBytes n t) t (countedTransport n t) := by
  unfold countedBytes countedTransport
  split
  · exact consumes_nothing t
  · exact consumes_rxAdvance n t

/-- Settles O19: a read takes the first bytes of what is available, which is the listed bytes, or these and whole copies of what
the device repeats. -/
theorem rxReadConsumesWhatItReturns : Obligations.RxReadConsumesWhatItReturns := by
  intro n s
  have split := rxTake_append_rest n s.transport
  refine ⟨_, _, rfl, rxTake_length_le n s.transport, rfl, rfl, rfl, fun listed => ?_, ?_, fun j within listed => ?_⟩
  · exact (rxAvailable_listed listed).symm.trans split.symm
  · by_cases short : s.transport.rx.length < n
    · refine ⟨n, Eq.trans ?_ split.symm⟩
      rw [rxAvailable, if_pos short]
    · refine ⟨0, Eq.trans ?_ split.symm⟩
      rw [rxAvailable_listed (.inr (Nat.not_lt.mp short)), List.replicate_zero, List.flatten_nil, List.append_nil]
  · have limit : min n j = j := Nat.min_eq_right within
    simp only [rxRead_fst, rxTake, rxLimit, List.headD_cons, limit, rxAvailable]
    split_ifs
    · exact List.take_append_of_le_length listed
    · rfl

/-- A read of bytes that stand at the head of the stream, by a transport that hands back all it is asked for. -/
theorem rxTake_begins {t : Transport} {bytes rest : List Byte} {n : Nat} (stream : t.rx = bytes ++ rest)
    (answers : t.answers = []) (length : bytes.length = n) :
    rxTake n t = bytes ∧ rxAdvance n t = { t with rx := rest, cursor := t.cursor + n } := by
  have draws : t.answers.tail = t.answers := by rw [answers, List.tail_nil]
  have full := rxTake_full stream length (by rw [answers, List.headD_nil])
  rwa [draws] at full

/-- A read past the end of a stream takes all that is left. -/
theorem rxTake_ends {t : Transport} {n : Nat} (ends : t.again = []) (answers : t.answers = []) (few : t.rx.length < n) :
    rxTake n t = t.rx ∧ rxAdvance n t = { t with rx := [], cursor := t.cursor + t.rx.length } := by
  have draws : t.answers.tail = t.answers := by rw [answers, List.tail_nil]
  have short := rxTake_short ends few (by rw [answers, List.headD_nil]; exact few.le)
  rwa [draws] at short

theorem counted_begins {t : Transport} {bytes rest : List Byte} {n : Nat} (stream : t.rx = bytes ++ rest)
    (answers : t.answers = []) (length : bytes.length = n) :
    countedBytes n t = bytes ∧ countedTransport n t = { t with rx := rest, cursor := t.cursor + n } := by
  by_cases zero : n = 0
  · subst zero
    obtain rfl := List.length_eq_zero_iff.mp length
    rw [List.nil_append] at stream
    subst stream
    exact ⟨rfl, rfl⟩
  · rw [countedBytes, countedTransport, if_neg zero, if_neg zero]
    exact rxTake_begins stream answers length

theorem counted_ends {t : Transport} {n : Nat} (ends : t.again = []) (answers : t.answers = []) (few : t.rx.length < n) :
    countedBytes n t = t.rx ∧ countedTransport n t = { t with rx := [], cursor := t.cursor + t.rx.length } := by
  have nonzero : n ≠ 0 := Nat.ne_zero_of_lt few
  rw [countedBytes, countedTransport, if_neg nonzero, if_neg nonzero]
  exact rxTake_ends ends answers few

/-! ### What the FrameReader answers under `CFG.PRE_READ = None` -/

theorem withoutPreRead_other {s : State} {p : Nat} (other : s.cfg.preRead = some p) (o : Result State) :
    withoutPreRead s o = .refused .preReadNotAdmitted := by
  rw [withoutPreRead, other]

/-- The state in which `k` chatter bytes have been counted and this transport is left (43_framereader.md R174, R175). -/
def skippedTo (k : Nat) (t : Transport) (s : State) : State :=
  { s with skipped := s.skipped + BitVec.ofNat 32 k, transport := t }

theorem fbRead_none {t : State} (noFrame : t.fvalid = false) : ∀ a, a < 258 → fbRead a t = .refused .noValue :=
  fun _ inside => fbRead_invalid inside noFrame

section WithoutPreRead

variable {s : State} (admitted : s.cfg.preRead = none)
include admitted

theorem exec_readFrame : exec .readFrame s = .next (startCycle s) := withoutPreRead_none admitted _

theorem exec_hdrChatter (instr : Byte) :
    exec (.hdrChatter instr) s = .next (setSeq .readingChatter (countSkipped 3 s)) := withoutPreRead_none admitted _

theorem exec_hdrDesync (bytes : List Byte) : exec (.hdrDesync bytes) s = .next (failDesync bytes s) :=
  withoutPreRead_none admitted _

theorem exec_hdrFrame (len : Byte) :
    exec (.hdrFrame len) s =
      if (countedBytes len.toNat s.transport).length < len.toNat then
        .next (failIncomplete { s with transport := countedTransport len.toNat s.transport })
      else
        .next (storedFrame len (countedBytes len.toNat s.transport)
          { s with transport := countedTransport len.toNat s.transport }) := by
  have room : (countedBytes len.toNat s.transport).length ≤ 255 :=
    (countedBytes_length_le _ _).trans (Nat.le_of_lt_succ len.isLt)
  change execHdrFrame len s = _
  rw [execHdrFrame, withoutPreRead_none admitted, rxReadCounted_eq]
  dsimp only
  rw [storeFrame_next _ room]
  rfl

theorem exec_hdrFrame_short {len : Byte} (short : (countedBytes len.toNat s.transport).length < len.toNat) :
    exec (.hdrFrame len) s =
      .next (failIncomplete { s with transport := countedTransport len.toNat s.transport }) := by
  rw [exec_hdrFrame admitted, if_pos short]

theorem exec_hdrFrame_whole {len : Byte} (whole : len.toNat ≤ (countedBytes len.toNat s.transport).length) :
    exec (.hdrFrame len) s =
      .next (storedFrame len (countedBytes len.toNat s.transport)
        { s with transport := countedTransport len.toNat s.transport }) := by
  rw [exec_hdrFrame admitted, if_neg (Nat.not_lt.mpr whole)]

theorem chatStep_noLength (none : rxTake 1 s.transport = []) :
    chatStep s = .next (failIncomplete { s with transport := rxAdvance 1 s.transport }) := by
  have uncounted : countSkipped 0 (rxRead 1 s).2 = (rxRead 1 s).2 := by
    simp only [countSkipped, BitVec.add_zero]
  rw [chatStep, withoutPreRead_none admitted]
  simp only [rxRead, none, List.length_nil] at uncounted ⊢
  rw [uncounted]
  rfl

/-- With a length byte step `CHAT` reads and counts the body (R175). -/
theorem chatStep_length {n : Byte} (length : rxTake 1 s.transport = [n]) :
    chatStep s =
      if (countedBytes n.toNat (rxAdvance 1 s.transport)).length < n.toNat then
        .next (failIncomplete (skippedTo (1 + (countedBytes n.toNat (rxAdvance 1 s.transport)).length)
          (countedTransport n.toNat (rxAdvance 1 s.transport)) s))
      else
        .next (setSeq .seekingFrame (skippedTo (1 + (countedBytes n.toNat (rxAdvance 1 s.transport)).length)
          (countedTransport n.toNat (rxAdvance 1 s.transport)) s)) := by
  rw [chatStep, withoutPreRead_none admitted]
  simp only [rxRead, length, List.length_singleton, skipBody, rxReadCounted_eq, countSkipped, skippedTo, BitVec.ofNat_add,
    BitVec.add_assoc]
  rfl

theorem chatStep_short {n : Byte} (length : rxTake 1 s.transport = [n])
    (short : (countedBytes n.toNat (rxAdvance 1 s.transport)).length < n.toNat) :
    chatStep s = .next (failIncomplete
      (skippedTo (1 + (countedBytes n.toNat (rxAdvance 1 s.transport)).length)
        (countedTransport n.toNat (rxAdvance 1 s.transport)) s)) := by
  rw [chatStep_length admitted length, if_pos short]

theorem chatStep_whole {n : Byte} (length : rxTake 1 s.transport = [n])
    (whole : n.toNat ≤ (countedBytes n.toNat (rxAdvance 1 s.transport)).length) :
    chatStep s = .next (setSeq .seekingFrame
      (skippedTo (1 + n.toNat) (countedTransport n.toNat (rxAdvance 1 s.transport)) s)) := by
  have exact_length := Nat.le_antisymm (countedBytes_length_le n.toNat (rxAdvance 1 s.transport)) whole
  rw [chatStep_length admitted length, if_neg (Nat.not_lt.mpr whole), exact_length]

end WithoutPreRead

/-! ### Statements about one step -/

/-- Settles O17: the start of a cycle drops the frame, so that no byte of it can be read. -/
theorem readFrameStartsCycle : Obligations.ReadFrameStartsCycle := fun s admitted =>
  ⟨startCycle s, exec_readFrame admitted, ⟨rfl, .inl rfl⟩, rfl, rfl, rfl, rfl, rfl, fbRead_none rfl, rfl, rfl, rfl, rfl,
    rfl, rfl, rfl, rfl⟩

/-- Settles O20: `SKIPPED` is 32 bits wide, so its sum is taken modulo 2^32. -/
theorem chatterHeaderIsCounted : Obligations.ChatterHeaderIsCounted := fun s instr admitted =>
  ⟨setSeq .readingChatter (countSkipped 3 s), exec_hdrChatter admitted instr, BitVec.toNat_add s.skipped 3#32, rfl, rfl⟩

/-- Settles O32: every header row, and so every step of a cycle, begins with the test of `CFG.PRE_READ`. -/
theorem otherPreReadIsRefused : Obligations.OtherPreReadIsRefused := by
  intro s p other
  have header (bytes : List Byte) (t : State) (same : t.cfg = s.cfg) :
      exec (decodeHeader s.cfg.constants bytes) t = .refused .preReadNotAdmitted := by
    have refused := withoutPreRead_other (s := t) (same ▸ other)
    match bytes with
    | [] | [_] | [_, _] => exact refused _
    | a :: b :: c :: _ =>
      simp only [decodeHeader]
      split <;> exact refused _
  refine ⟨withoutPreRead_other other _, fun bytes => header bytes s rfl, ?_⟩
  rintro ⟨waiting, seeking | chatter⟩
  · rw [step_seeking waiting seeking]
    exact header _ _ rfl
  · rw [step_chatter waiting chatter]
    exact withoutPreRead_other other _

/-- Settles O21: the three answers of `chatStep`, by the length byte and the length of the body handed back. -/
theorem chatStepSkipsOrFails : Obligations.ChatStepSkipsOrFails := by
  intro s waiting chatter admitted
  rw [step_chatter waiting chatter]
  refine ⟨fun none => ⟨_, chatStep_noLength admitted none, fbRead_none rfl, rfl⟩, fun n r length read => ?_⟩
  rw [rxReadCounted_eq] at read
  subst read
  exact ⟨fun whole => chatStep_whole admitted length whole,
    fun short => ⟨_, chatStep_short admitted length short, fbRead_none rfl, rfl⟩⟩

/-! ### Step `CHAT` over listed bytes (decision D28) -/

section ListedBytes

variable {s : State} (admitted : s.cfg.preRead = none) (answers : s.transport.answers = [])
include admitted answers

/-- A length byte and the whole body at the head of the stream are consumed and counted. -/
theorem chatStep_begins {n : Byte} {body rest : List Byte} (stream : s.transport.rx = n :: (body ++ rest))
    (length : body.length = n.toNat) :
    chatStep s = .next (setSeq .seekingFrame (skippedTo (1 + n.toNat)
      { s.transport with rx := rest, cursor := s.transport.cursor + (1 + n.toNat) } s)) := by
  obtain ⟨lengthByte, advanced⟩ := rxTake_begins (bytes := [n]) (rest := body ++ rest) (n := 1) stream answers rfl
  obtain ⟨bytes, left⟩ := counted_begins (t := rxAdvance 1 s.transport) (rest := rest) (by rw [advanced])
    (by rw [advanced, answers]) length
  rw [chatStep_whole admitted lengthByte (by rw [bytes, length]), left, advanced]
  simp only [Nat.add_assoc]

/-- A length byte with too few bytes behind it is consumed and counted with all of them, and the cycle fails. -/
theorem chatStep_ends {n : Byte} {body : List Byte} (ends : s.transport.again = [])
    (stream : s.transport.rx = n :: body) (few : body.length < n.toNat) :
    chatStep s = .next (failIncomplete (skippedTo (1 + body.length)
      { s.transport with rx := [], cursor := s.transport.cursor + (1 + body.length) } s)) := by
  obtain ⟨lengthByte, advanced⟩ := rxTake_begins (bytes := [n]) (rest := body) (n := 1) stream answers rfl
  obtain ⟨bytes, left⟩ := counted_ends (t := rxAdvance 1 s.transport) (n := n.toNat) (by rw [advanced, ends])
    (by rw [advanced, answers]) (by rw [advanced]; exact few)
  have failed := chatStep_short admitted lengthByte (by rw [bytes, advanced]; exact few)
  rw [bytes, left, advanced] at failed
  simpa only [Nat.add_assoc] using failed

theorem chatStep_empty (ends : s.transport.again = []) (empty : s.transport.rx = []) :
    chatStep s = .next (failIncomplete s) := by
  obtain ⟨none, left⟩ := rxTake_ends (n := 1) ends answers (by rw [empty]; exact Nat.zero_lt_one)
  have untouched : rxAdvance 1 s.transport = s.transport := by
    rw [left, empty, List.length_nil, Nat.add_zero, ← empty]
  rw [chatStep_noLength admitted (none.trans empty), untouched]

end ListedBytes

/-- Settles O22: the three answers of `chatStep` by what stands at the head of the stream. -/
theorem chatStepOverFiniteStream : Obligations.ChatStepOverFiniteStream := by
  intro s waiting chatter admitted finite
  obtain ⟨ends, answers⟩ := finite
  rw [step_chatter waiting chatter]
  exact ⟨fun n body rest stream length => chatStep_begins admitted answers stream length,
    fun n body stream few => ⟨_, chatStep_ends admitted answers ends stream few, rfl⟩,
    fun empty => ⟨_, chatStep_empty admitted answers ends empty, rfl⟩⟩

/-- Settles O23: the body handed back is written behind the three header bytes, inside the buffer. -/
theorem frameHeaderStoresFrame : Obligations.FrameHeaderStoresFrame := by
  intro s len r admitted read
  refine ⟨fun whole => ?_, fun body rest stream length => ?_⟩
  · rw [rxReadCounted_eq] at read
    subst read
    have exact_length := Nat.le_antisymm (countedBytes_length_le len.toNat s.transport) whole
    have consumed := consumes_counted len.toNat s.transport
    exact ⟨_, exec_hdrFrame_whole admitted whole, exact_length, holdsFrame_storedFrame exact_length,
      storedFrame_flen _ _ _, consumed.cursor.trans (by rw [exact_length]), consumed.stream, rfl⟩
  · rw [read, rxReadCounted_full stream length]
    exact ⟨rfl, rfl⟩

/-- Settles O24: the test for a short body comes before any byte is stored. -/
theorem frameHeaderShortBodyIsIncomplete : Obligations.FrameHeaderShortBodyIsIncomplete := by
  intro s len r admitted read
  refine ⟨fun short => ?_, fun finite few => ?_⟩
  · rw [rxReadCounted_eq] at read
    subst read
    have consumed := consumes_counted len.toNat s.transport
    exact ⟨_, exec_hdrFrame_short admitted short, fbRead_none rfl, consumed.cursor, consumed.stream, rfl⟩
  · rw [read, rxReadCounted_short finite few]
    exact ⟨rfl, rfl⟩

theorem errBytes_get_store (e : ErrBytes) (h : List Byte) {i : Nat} (inside : i < 3) :
    (e.store h).get i = h[i]?.or (e.get i) := by
  have store (stored : Byte) : some (h.getD i stored) = h[i]?.or (some stored) := by
    rw [List.getD_eq_getElem?_getD]
    cases h[i]? <;> rfl
  match i, inside with
  | 0, _ | 1, _ | 2, _ => exact store _

theorem errBytes_get_beyond (e : ErrBytes) {i : Nat} (beyond : 3 ≤ i) : e.get i = none := by
  obtain ⟨j, rfl⟩ := Nat.exists_eq_add_of_le' beyond
  rfl

/-- The stored bytes beyond the offending ones stay (R177; log 6). -/
theorem failDesync_errBytes_beyond {s : State} {h : List Byte} {i : Nat} (beyond : h.length ≤ i) :
    (failDesync h s).errBytes.get i = s.errBytes.get i := by
  rw [failDesync_errBytes]
  by_cases inside : i < 3
  · rw [errBytes_get_store _ _ inside, List.getElem?_eq_none beyond, Option.none_or]
  · rw [errBytes_get_beyond _ (Nat.not_lt.mp inside), errBytes_get_beyond _ (Nat.not_lt.mp inside)]

section Desync

variable {s : State} {h : List Byte} (three : h.length ≤ 3)
include three

theorem failDesync_errN_toNat : (failDesync h s).errN.toNat = h.length := by
  rw [failDesync_errN, BitVec.toNat_ofNat]
  omega

theorem errByteRead_failDesync {i : Nat} {b : Byte} (stored : h[i]? = some b) :
    errByteRead i (failDesync h s) = .next b := by
  have inside : i < h.length := (List.getElem?_eq_some_iff.mp stored).1
  have counted : i < (failDesync h s).errN.toNat := by rwa [failDesync_errN_toNat three]
  simp only [errByteRead, counted, if_true, failDesync_errBytes, errBytes_get_store _ _ (inside.trans_le three), stored,
    Option.some_or]

end Desync

/-- Settles O25: a short or unmarked header decodes to `HDR.DESYNC` with the bytes of the read, of which there are at most
three. -/
theorem desyncReportsOffendingBytes : Obligations.DesyncReportsOffendingBytes := by
  intro s h waiting seeking admitted read unmarked
  have three : h.length ≤ 3 := read ▸ rxTake_length_le 3 s.transport
  have decoded : decodeHeader s.cfg.constants h = .hdrDesync h := by
    obtain short | ⟨a, b, c, rfl, chat, real⟩ := unmarked
    · exact decodeHeader_short _ short
    · exact decodeHeader_of_no_marker c chat real
  have answer : exec (.hdrDesync h) (rxRead 3 s).2 = .next (failDesync h (rxRead 3 s).2) :=
    exec_hdrDesync (s := (rxRead 3 s).2) admitted h
  rw [step_seeking waiting seeking, read, decoded]
  exact ⟨_, answer, answer, failDesync_errN_toNat three, fun i b => errByteRead_failDesync three,
    fun i => failDesync_errBytes_beyond, fbRead_none rfl, rfl⟩

end Sys2Proof.Proofs

/-! PROOF. The Decoder (44_decoder.md): the order of `DECODE`'s tests, the rows that give no or one value, and the whole
operation against its pseudocode. -/

namespace Sys2Proof.Proofs

open Sys2Proof.Machine Sys2Proof.Laws

/-! ### The tests of `DECODE` (R200 to R204) -/

theorem exec_ruleInstr (len cmd : Byte) (r : DecodeRule) (s : State) : exec (ruleInstr len cmd r) s = runRule r s := by
  cases r <;> rfl

theorem exec_decode_noFrame (expected : Byte) {s : State} (invalid : s.fvalid = false) :
    exec (.decode expected) s = .next (emptyResult .noFrame s) :=
  if_neg (Bool.eq_false_iff.mp invalid)

section Valid

variable {s : State} (valid : s.fvalid = true)
include valid

/-- A frame of declared length 0 has no command byte to check (R202; decision D11). -/
theorem exec_decode_zero (expected : Byte) (length : fbRead 2 s = .next 0) :
    exec (.decode expected) s = runRule (selectRule s.cfg.constants 0 none) s := by
  change execDecode expected s = _
  rw [execDecode, if_pos valid, length, andThen_next, if_pos rfl]

theorem exec_decode_command (expected : Byte) {len cmd : Byte} (length : fbRead 2 s = .next len) (nonzero : len ≠ 0)
    (command : fbRead 3 s = .next cmd) :
    exec (.decode expected) s =
      if cmd = expected then runRule (selectRule s.cfg.constants len (some cmd)) s
      else .next (emptyResult .commandMismatch s) := by
  change execDecode expected s = _
  rw [execDecode, if_pos valid, length, andThen_next, if_neg nonzero, command, andThen_next]

end Valid

/-- Settles O3: once the command check has passed `DECODE` runs the rule of its key, which is how the row's instruction is
defined. -/
theorem decodeRunsDispatchedRow : Obligations.DecodeRunsDispatchedRow := by
  intro s len cmd valid length
  refine ⟨fun nonzero command => ?_, fun zero overhead => ?_⟩
  · have dispatched := exec_decode_command valid cmd length nonzero command
    rw [if_pos rfl] at dispatched
    refine ⟨fun i decoded => ?_, fun printed => ?_⟩
    · cases (decodeKey_of_ne_zero s.cfg.constants cmd [] nonzero).symm.trans decoded
      rw [dispatched, exec_ruleInstr]
    · rw [dispatched, exec_ruleInstr, printed, selectRule_printed_eq]
  · subst zero
    have short : bodyLength s.cfg.constants 0 ≤ 0 := by rw [bodyLength_zero]; omega
    rw [exec_decode_zero valid cmd length, selectRule_short short]
    rfl

/-- Settles O33: the test for a frame comes first. -/
theorem decodeWithoutFrameIsEmpty : Obligations.DecodeWithoutFrameIsEmpty := by
  intro s expected invalid
  rw [exec_decode_noFrame expected invalid, invalid]
  rfl

section Command

variable {s : State} {c : Constants} {len cmd : Byte} {payload : List Byte}
  (held : HoldsFrame s (realFrame c len (cmd :: payload))) (length : payload.length + 1 = len.toNat)
include held length

/-- `DECODE` of a frame with a command byte, which is checked before the length (R202). -/
theorem exec_decode_held (expected : Byte) :
    exec (.decode expected) s =
      if cmd = expected then runRule (selectRule s.cfg.constants len (some cmd)) s
      else .next (emptyResult .commandMismatch s) := by
  have nonzero : len ≠ 0 := by
    rintro rfl
    cases length
  exact exec_decode_command held.1 expected (holdsFrame_read held (i := 2) rfl) nonzero
    (holdsFrame_read held (i := 3) rfl)

theorem exec_decode_mismatch {expected : Byte} (mismatch : cmd ≠ expected) :
    exec (.decode expected) s = .next (emptyResult .commandMismatch s) := by
  rw [exec_decode_held held length, if_neg mismatch]

theorem exec_decode_match : exec (.decode cmd) s = runRule (selectRule s.cfg.constants len (some cmd)) s := by
  rw [exec_decode_held held length, if_pos rfl]

end Command

theorem exec_decode_empty {s : State} {c : Constants} {len : Byte} (held : HoldsFrame s (realFrame c len []))
    (zero : len = 0) (overhead : 0 ≤ s.cfg.constants.lenOverhead) (expected : Byte) :
    exec (.decode expected) s = .next (emptyResult .shortLength s) := by
  subst zero
  have short : bodyLength s.cfg.constants 0 ≤ 0 := by rw [bodyLength_zero]; omega
  rw [exec_decode_zero held.1 expected (holdsFrame_read held (i := 2) rfl), selectRule_short short]
  rfl

/-- Settles O34: a mismatch is found before any test of the length. -/
theorem decodeMismatchIsEmpty : Obligations.DecodeMismatchIsEmpty := by
  intro s expected len cmd payload held length mismatch
  exact exec_decode_mismatch held length mismatch

/-- Settles O35: a declared length up to `LEN_OVERHEAD` is a body length of 0 or less, with or without a command byte. -/
theorem decodeShortLengthIsEmpty : Obligations.DecodeShortLengthIsEmpty := by
  intro s expected len body held length overhead command t answer
  subst answer
  refine ⟨?_, rfl⟩
  cases body with
  | nil =>
    have zero : len = 0 := BitVec.toNat_inj.mp length.symm
    exact exec_decode_empty held zero (by omega) expected
  | cons cmd payload =>
    obtain rfl : cmd = expected := command cmd rfl
    have short : bodyLength s.cfg.constants len ≤ 0 := Int.sub_nonpos_of_le overhead
    rw [exec_decode_match held length, selectRule_short short]
    rfl

/-- Settles O40: the row's two policies are the two branches of `execDecOther`, and the frame has a first payload byte. -/
theorem otherRowFollowsPolicy : Obligations.OtherRowFollowsPolicy := by
  intro s len cmd p0 others wf held length
  have dispatched : exec (.decode cmd) s = execDecOther s := by
    rw [exec_decode_match held length, selectRule_other (wellFormed_other_iff.mp wf).2]
    rfl
  have row : exec (.decOther len cmd) s = execDecOther s := rfl
  rw [dispatched, row]
  refine ⟨fun policy t answer => ?_, fun policy t answer => ?_⟩
  · have first : execDecOther s = .next (deliver [p0.toInt] .s8 s) := by
      rw [execDecOther, policy]
      exact decodeByte_of_held (p := [p0]) (after := others) held (k := 0) Nat.zero_lt_one
    rw [first, answer]
    exact ⟨rfl, rfl⟩
  · have empty : execDecOther s = .next (emptyResult .none s) := by
      rw [execDecOther, policy]
    rw [empty, answer]
    exact ⟨rfl, rfl⟩

/-- Settles O42: with `RCNT >= 1` register 0 has a value. -/
theorem unwrapSingleGivesFirstOrSentinel : Obligations.UnwrapSingleGivesFirstOrSentinel := by
  intro s
  refine ⟨fun some => ?_, fun none => ?_⟩
  · change execUnwrapSingle s = _
    rw [execUnwrapSingle, if_pos some, resRead_zero some]
    rfl
  · exact if_neg (by omega)

/-! ### The whole operation (R211) -/

/-- The registers hold this verdict: `ERR`, `RKIND` and the elements of the result. -/
def HoldsVerdict (r : ErrKind × ResultKind × List Int) (t : State) : Prop :=
  t.err = r.1 ∧ t.rkind = r.2.1 ∧ t.rcnt.toNat = r.2.2.length ∧
    ∀ k v, r.2.2[k]? = some v → resRead k t = .next (BitVec.ofInt 16 v)

theorem holdsVerdict_emptyResult (why : ErrKind) (s : State) : HoldsVerdict (why, .empty, []) (emptyResult why s) :=
  ⟨rfl, rfl, rfl, fun _ _ h => nomatch h⟩

theorem holdsVerdict_deliver {vs : List Int} (kind : ResultKind) (s : State) (room : vs.length ≤ 6) :
    HoldsVerdict (.none, kind, vs) (deliver vs kind s) := by
  refine ⟨rfl, rfl, ?_, fun k v h => ?_⟩
  · rw [deliver_rcnt, BitVec.toNat_ofNat]
    exact Nat.mod_eq_of_lt (by omega)
  · obtain ⟨inside, rfl⟩ := List.getElem?_eq_some_iff.mp h
    exact resRead_deliver vs kind s room inside

/-- What a row makes of its payload (R203 to R209). -/
def rowVerdict (policy : OtherLenPolicy) (p : List Byte) : DecodeRule → ErrKind × ResultKind × List Int
  | .list6 => (.none, .listS16, laneValues p 6)
  | .list4 => (.none, .listS16, laneValues p 4)
  | .s8Sec => (.none, .s8, [(p.getD 1 0).toInt])
  | .s16 => (.none, .s16, [(p.getD 0 0 ++ p.getD 1 0).toInt])
  | .s8 => (.none, .s8, [(p.getD 0 0).toInt])
  | .short => (.shortLength, .empty, [])
  | .other => if policy = .firstByte then (.none, .s8, [(p.getD 0 0).toInt]) else (.none, .empty, [])

/-- How many payload bytes a row reads. -/
def rowBytes : DecodeRule → Nat
  | .list6 => 12
  | .list4 => 8
  | .s8Sec | .s16 => 2
  | .s8 | .other => 1
  | .short => 0

/-- A row is selected only for a payload that has its bytes. -/
theorem rowBytes_le (len cmd : Byte) : rowBytes (printedKeyRule (len ++ cmd)) ≤ len.toNat - 2 := by
  rw [printedKeyRule_eq]
  split_ifs <;> simp only [rowBytes] <;> omega

theorem decodeOver_empty (policy : OtherLenPolicy) (expected : Byte) :
    decodeOver policy expected (realFrame .printed 0 []) = (.shortLength, .empty, []) := rfl

/-- The pseudocode on a frame with a command byte: its tests on the length and the command are those of the printed table. -/
theorem decodeOver_command (policy : OtherLenPolicy) (expected : Byte) {len : Byte} (cmd : Byte) (p : List Byte)
    (nonzero : 1 ≤ len.toNat) :
    decodeOver policy expected (realFrame .printed len (cmd :: p)) =
      if cmd = expected then rowVerdict policy p (printedKeyRule (len ++ cmd)) else (.commandMismatch, .empty, []) := by
  have payload (k : Nat) : (realFrame .printed len (cmd :: p)).getD (4 + k) 0 = p.getD k 0 := by
    rw [Nat.add_comm]
    rfl
  have length : (realFrame .printed len (cmd :: p)).getD 2 0 = len := rfl
  have command : (realFrame .printed len (cmd :: p)).getD 3 0 = cmd := rfl
  have other : rowVerdict policy p .other =
      if policy = .firstByte then rowVerdict policy p .s8 else (.none, .empty, []) := rfl
  have rows : decodeOver policy expected (realFrame .printed len (cmd :: p)) =
      if cmd = expected then
        if len.toNat ≤ 2 then rowVerdict policy p .short
        else if len.toNat = 14 then rowVerdict policy p .list6
        else if len.toNat = 10 then rowVerdict policy p .list4
        else if len.toNat = 4 then
          if cmd = 0x50#8 then rowVerdict policy p .s8Sec else rowVerdict policy p .s16
        else if len.toNat = 3 ∨ policy = .firstByte then rowVerdict policy p .s8 else (.none, .empty, [])
      else (.commandMismatch, .empty, []) := by
    simp only [decodeOver, payload, length, command, nonzero, true_and, ne_eq, ite_not]
    rfl
  rw [rows, printedKeyRule_eq]
  simp only [apply_ite (rowVerdict policy p), other]
  congr 1
  by_cases short : len.toNat ≤ 2
  · simp (disch := omega) only [if_pos, if_neg]
  · rw [if_neg short]
    grind

/-- Each row run on a held frame ends in its verdict, if the payload has the bytes that the row reads. -/
theorem runRule_rowVerdict {s : State} {len cmd : Byte} {p : List Byte} (printed : s.cfg.constants = .printed)
    (held : HoldsFrame s (realFrame .printed len (cmd :: p))) {r : DecodeRule} (enough : rowBytes r ≤ p.length) :
    ∃ t, runRule r s = .next t ∧ HoldsVerdict (rowVerdict s.cfg.otherLen p r) t := by
  rw [← List.append_nil p] at held
  have first (h : 0 < p.length) : ∃ t, decodeByte 0 s = .next t ∧
      HoldsVerdict (.none, .s8, [(p.getD 0 0).toInt]) t :=
    ⟨_, decodeByte_of_held held h, holdsVerdict_deliver _ s (by simp)⟩
  cases r with
  | list6 =>
    refine ⟨_, ?_, holdsVerdict_deliver .listS16 s (by simp)⟩
    rw [runRule, execDecList6, printed]
    exact decodeLanes_of_held held rfl (by decide) enough
  | list4 =>
    refine ⟨_, ?_, holdsVerdict_deliver .listS16 s (by simp)⟩
    rw [runRule, execDecList4, printed]
    exact decodeLanes_of_held held rfl (by decide) enough
  | s8Sec => exact ⟨_, decodeByte_of_held held enough, holdsVerdict_deliver _ s (by simp)⟩
  | s16 => exact ⟨_, execDecS16_of_held held enough, holdsVerdict_deliver _ s (by simp)⟩
  | s8 => exact first enough
  | short => exact ⟨_, rfl, holdsVerdict_emptyResult _ s⟩
  | other =>
    rw [runRule, execDecOther]
    cases policy : s.cfg.otherLen with
    | firstByte => exact first enough
    | empty => exact ⟨_, rfl, holdsVerdict_emptyResult _ s⟩

theorem ruleEnds_frame {s t : State} (ends : RuleEnds s t) :
    t.fvalid = false ∧ t = { s with
      res := t.res, rcnt := t.rcnt, rkind := t.rkind, err := t.err, errN := 0, fvalid := false
      caller := { s.caller with reply := .registers } } := by
  cases ends <;> exact ⟨rfl, rfl⟩

/-- Settles O41: the pseudocode's tests are those of `execDecode` on the bytes that the buffer holds. -/
theorem decodeRefinesPseudocode : Obligations.DecodeRefinesPseudocode := by
  intro s expected len body printed held length r verdict
  have answer : ∃ t, exec (.decode expected) s = .next t ∧ HoldsVerdict r t := by
    subst verdict
    cases body with
    | nil =>
      have zero : len = 0 := BitVec.toNat_inj.mp length.symm
      refine ⟨_, exec_decode_empty held zero (by rw [printed]; decide) expected, ?_⟩
      rw [zero, decodeOver_empty]
      exact holdsVerdict_emptyResult _ s
    | cons cmd p =>
      rw [exec_decode_held held length, printed,
        decodeOver_command s.cfg.otherLen expected cmd p (length ▸ Nat.le_add_left 1 p.length)]
      split_ifs
      · rw [selectRule_printed_eq]
        have bytes := rowBytes_le len cmd
        have payload : p.length + 1 = len.toNat := length
        exact runRule_rowVerdict printed held (by omega)
      · exact ⟨_, rfl, holdsVerdict_emptyResult _ s⟩
  obtain ⟨t, answer, err, rkind, rcnt, values⟩ := answer
  exact ⟨t, answer, err, rkind, rcnt, values, (ruleEnds_frame (ruleEnds_of_decode answer)).2⟩

end Sys2Proof.Proofs

/-! PROOF. The whole machine: what every step does to the stream, to the count of skipped bytes and to the sequencing state,
which registers each instruction writes, reset, and that a consistent state goes on. -/

namespace Sys2Proof.Proofs

open Sys2Proof.Machine Sys2Proof.Laws

/-- Settles O1: outside a cycle the fetch is that of the first request. -/
theorem stepRunsRequestedInstruction : Obligations.StepRunsRequestedInstruction :=
  ⟨fun _ _ _ requested => ⟨fun _ => step_of_request requested, fun _ => step_of_rejected requested⟩, fun _ => step_idle⟩

/-- Settles O2: inside a cycle the fetch is that of a header, or step `CHAT`. -/
theorem stepRunsHeaderInstruction : Obligations.StepRunsHeaderInstruction := fun _ waiting =>
  ⟨step_seeking waiting, step_chatter waiting⟩

/-! ### The stream and the count -/

/-- Step `CHAT` counts exactly the bytes it consumes, and seeks again only after it has consumed some. -/
theorem chatStep_counts {s t : State} (h : chatStep s = .next t) :
    ∃ used left, Consumes used s.transport left ∧
      (t = failIncomplete (skippedTo used.length left s) ∨
        used ≠ [] ∧ t = setSeq .seekingFrame (skippedTo used.length left s)) := by
  have length := consumes_rxAdvance 1 s.transport
  obtain ⟨admitted, ⟨none, -⟩ | ⟨n, -, lengthByte, -⟩⟩ := chatStep_cases h
  · rw [rxRead_fst] at none
    cases (chatStep_noLength admitted none).symm.trans h
    rw [none] at length
    exact ⟨[], _, length, .inl (by simp only [skippedTo, List.length_nil, BitVec.add_zero])⟩
  · rw [rxRead_fst] at lengthByte
    have answer := (chatStep_length admitted lengthByte).symm.trans h
    rw [lengthByte] at length
    have consumed := consumes_trans length (consumes_counted n.toNat (rxAdvance 1 s.transport))
    rw [← List.length_singleton (a := n), ← List.length_append] at answer
    refine ⟨_, _, consumed, ?_⟩
    split at answer
    · cases answer
      exact .inl rfl
    · cases answer
      exact .inr ⟨List.cons_ne_nil _ _, rfl⟩

/-- How step `SEEK` ends: with a chatter header, which is three bytes, or with the end of the cycle, counting nothing. -/
inductive SeekEnds (s : State) : State → Prop
  | chatter {used : List Byte} {left : Transport} : Consumes used s.transport left → used.length = 3 →
    SeekEnds s (setSeq .readingChatter (skippedTo 3 left s))
  | incomplete {used : List Byte} {left : Transport} : Consumes used s.transport left →
    SeekEnds s (failIncomplete { s with transport := left })
  | desync {used : List Byte} {left : Transport} (bytes : List Byte) : Consumes used s.transport left →
    SeekEnds s (failDesync bytes { s with transport := left })
  | stored {used body : List Byte} {left : Transport} (len : Byte) : Consumes used s.transport left →
    SeekEnds s (storedFrame len body { s with transport := left })

theorem seekEnds_of_exec {k : Constants} {s t : State}
    (h : exec (decodeHeader k (rxTake 3 s.transport)) (rxRead 3 s).2 = .next t) : SeekEnds s t := by
  have header := consumes_rxAdvance 3 s.transport
  obtain ⟨three, rfl⟩ | ⟨len, r, rfl, body⟩ | rfl := seek_cases (rxTake_length_le 3 s.transport) h
  · exact .chatter header three
  · have consumed := consumes_trans header (consumes_counted len.toNat (rxAdvance 3 s.transport))
    rw [rxReadCounted_eq] at body
    obtain ⟨-, rfl⟩ | ⟨-, rfl⟩ := body
    · exact .incomplete consumed
    · exact .stored len consumed
  · exact .desync _ header

/-- An operation of the caller neither reads the stream nor counts. -/
theorem operationEnds_frame {i : Instr} {s t : State} (ends : OperationEnds i s t) :
    t.cfg = s.cfg ∧ t.transport = s.transport ∧ t.skipped = s.skipped := by
  obtain _ | ends | ends | _ := ends
  · exact ⟨rfl, rfl, rfl⟩
  · cases ends <;> exact ⟨rfl, rfl, rfl⟩
  · cases ends <;> exact ⟨rfl, rfl, rfl⟩
  · exact ⟨rfl, rfl, rfl⟩

/-- A step outside a cycle is idle or the end of an operation that the caller's first request selects. -/
theorem outside_cases {s t : State} (h : t = s ∨ ∃ r rest i, s.caller.requests = r :: rest ∧ decodeRequest r = .ok i ∧
      exec i (takeRequest rest s) = .next t) :
    t = s ∨ ∃ r rest i, s.caller.requests = r :: rest ∧ SelectedBy r i ∧ OperationEnds i (takeRequest rest s) t := by
  obtain rfl | ⟨r, rest, i, requests, decoded, answer⟩ := h
  · exact .inl rfl
  · have selected := selectedBy_of_decodeRequest decoded
    exact .inr ⟨r, rest, i, requests, selected, operationEnds_of_exec selected answer⟩

/-- Every step leaves the configuration, and consumes the next bytes of the stream. -/
theorem step_consumes {s t : State} (h : step s = .next t) :
    t.cfg = s.cfg ∧ ∃ used, Consumes used s.transport t.transport := by
  obtain ⟨-, -, answer⟩ | ⟨-, -, answer⟩ | ⟨-, answer⟩ := step_cases h
  · obtain consumed | consumed | ⟨-, consumed⟩ | ⟨-, consumed⟩ := seekEnds_of_exec answer <;>
      exact ⟨rfl, _, consumed⟩
  · obtain ⟨used, left, consumed, rfl | ⟨-, rfl⟩⟩ := chatStep_counts answer <;> exact ⟨rfl, used, consumed⟩
  · obtain rfl | ⟨r, rest, i, -, -, ends⟩ := outside_cases answer
    · exact ⟨rfl, [], consumes_nothing _⟩
    · obtain ⟨cfg, transport, -⟩ := operationEnds_frame ends
      exact ⟨cfg, [], by rw [transport]; exact consumes_nothing _⟩

/-- Settles O55: the bytes that a step consumes account for the cursor and for what is left of the stream. -/
theorem stepKeepsConfigurationAndOutbound : Obligations.StepKeepsConfigurationAndOutbound := by
  intro s t h
  obtain ⟨cfg, used, consumed⟩ := step_consumes h
  refine ⟨cfg, consumed.tx, consumed.again, ?_, fun ends => ⟨used, consumed.stream ends, consumed.cursor⟩⟩
  rw [consumed.cursor]
  exact Nat.le_add_right _ _

/-- Settles O31: each kind of step counts as `chatStep_counts`, `SeekEnds` and `operationEnds_frame` say. -/
theorem skippedCountsChatterBytes : Obligations.SkippedCountsChatterBytes := by
  intro s t h
  refine ⟨fun waiting chatter => ?_, fun waiting seeking => ?_, fun outside => ?_⟩
  · have counted : ∃ used : List Byte, t.transport.cursor = s.transport.cursor + used.length ∧
        t.skipped = s.skipped + BitVec.ofNat 32 used.length := by
      obtain ⟨used, left, consumed, rfl | ⟨-, rfl⟩⟩ := chatStep_counts ((step_chatter waiting chatter).symm.trans h) <;>
        exact ⟨used, consumed.cursor, rfl⟩
    obtain ⟨used, cursor, skipped⟩ := counted
    rw [cursor, Nat.add_sub_cancel_left]
    exact ⟨Nat.le_add_right _ _, skipped⟩
  · obtain ⟨consumed, three⟩ | _ | _ | _ := seekEnds_of_exec ((step_seeking waiting seeking).symm.trans h)
    · exact ⟨fun _ => ⟨rfl, consumed.cursor.trans (by rw [three])⟩, fun other => absurd rfl other⟩
    all_goals exact ⟨fun chatter => (nomatch chatter), fun _ => rfl⟩
  · obtain ⟨waiting, seeking, -⟩ | ⟨waiting, chatter, -⟩ | ⟨-, answer⟩ := step_cases h
    · exact absurd ⟨waiting, .inl seeking⟩ outside
    · exact absurd ⟨waiting, .inr chatter⟩ outside
    · obtain rfl | ⟨r, rest, i, -, -, ends⟩ := outside_cases answer
      · exact ⟨rfl, rfl⟩
      · obtain ⟨-, transport, skipped⟩ := operationEnds_frame ends
        exact ⟨skipped, transport⟩

/-- Settles O26: the transitions are those of `SeekEnds` and `chatStep_counts` inside a cycle, and `startCycle` alone moves
`ST` outside one. -/
theorem sequencingStateMovesOnlyByTable : Obligations.SequencingStateMovesOnlyByTable := by
  intro s t h
  obtain ⟨waiting, seeking, answer⟩ | ⟨waiting, chatter, answer⟩ | ⟨outside, answer⟩ := step_cases h
  · refine .inl ⟨waiting, seeking, ?_⟩
    obtain _ | _ | _ | _ := seekEnds_of_exec answer
    · exact .inl ⟨rfl, waiting⟩
    · exact .inr (.inr ⟨rfl, .inr rfl, rfl, rfl⟩)
    · exact .inr (.inr ⟨rfl, .inl rfl, rfl, rfl⟩)
    · exact .inr (.inl ⟨rfl, rfl, rfl, rfl⟩)
  · refine .inr (.inl ⟨waiting, chatter, ?_⟩)
    obtain ⟨used, left, -, rfl | ⟨-, rfl⟩⟩ := chatStep_counts answer
    · exact .inr ⟨rfl, rfl, rfl, rfl⟩
    · exact .inl ⟨rfl, waiting⟩
  · refine .inr (.inr ?_)
    obtain rfl | ⟨r, rest, i, requests, selected, ends⟩ := outside_cases answer
    · exact .inr ⟨outside, rfl⟩
    · obtain _ | ends | ends | started := ends
      · exact .inr ⟨outside, rfl⟩
      · exact .inr ⟨outside, by cases ends <;> rfl⟩
      · exact .inr ⟨outside, by cases ends <;> rfl⟩
      · subst started
        obtain rfl : r = ⟨10, .none⟩ := selected
        exact .inl ⟨outside, rfl, rest, requests⟩

/-! ### Which registers an instruction writes -/

theorem checkedEnds_frame {s t : State} (ends : CheckedEnds s t) :
    (t.err = .none ∨ t.err = .rangeError) ∧
      t = { s with err := t.err, errN := 0, caller := { s.caller with reply := t.caller.reply } } := by
  cases ends
  · exact ⟨.inl rfl, rfl⟩
  · exact ⟨.inr rfl, rfl⟩

/-- Settles O56: each instruction ends in one of the shared ends of operations, and these are its frames. -/
theorem operationsWriteOnlyTheirRegisters : Obligations.OperationsWriteOnlyTheirRegisters := by
  intro i s t h
  cases i with
  | decodeInt8 | decodeInt16 | angleToInt | coordToInt | intToAngle | intToCoord | flatten =>
    cases h
    rfl
  | unwrapSingle =>
    obtain ⟨r, rfl⟩ := exec_unwrapSingle_eq_next h
    rfl
  | encodeInt8 | encodeInt16 | buildCommandPayload => exact checkedEnds_frame (checkedEnds_of_endChecked h)
  | decode => exact ruleEnds_frame (ruleEnds_of_decode h)
  | decList6 => exact ruleEnds_frame (ruleEnds_of_runRule (r := .list6) h)
  | decList4 => exact ruleEnds_frame (ruleEnds_of_runRule (r := .list4) h)
  | decS8Sec => exact ruleEnds_frame (ruleEnds_of_runRule (r := .s8Sec) h)
  | decS16 => exact ruleEnds_frame (ruleEnds_of_runRule (r := .s16) h)
  | decS8 => exact ruleEnds_frame (ruleEnds_of_runRule (r := .s8) h)
  | decShort => exact ruleEnds_frame (ruleEnds_of_runRule (r := .short) h)
  | decOther => exact ruleEnds_frame (ruleEnds_of_runRule (r := .other) h)
  | readFrame =>
    obtain ⟨-, rfl⟩ := exec_readFrame_eq_next h
    exact ⟨rfl, rfl, rfl, rfl, rfl, rfl⟩
  | hdrChatter =>
    obtain ⟨-, rfl⟩ := exec_hdrChatter_eq_next h
    exact ⟨rfl, rfl, rfl, rfl, rfl, rfl⟩
  | hdrDesync =>
    obtain ⟨-, rfl⟩ := exec_hdrDesync_eq_next h
    exact ⟨rfl, rfl, rfl, rfl, rfl, rfl⟩
  | hdrFrame len =>
    obtain ⟨-, r, rfl, body⟩ := exec_hdrFrame_cases h
    have outbound := (consumes_counted len.toNat s.transport).tx
    rw [rxReadCounted_eq] at body
    obtain ⟨-, rfl⟩ | ⟨-, rfl⟩ := body <;> exact ⟨rfl, rfl, rfl, rfl, outbound, rfl⟩

/-! ### Reset -/

/-- Settles O50: `FVALID`, `RCNT` and `ERRN` are 0, so nothing can be read. -/
theorem resetLeavesNothing : Obligations.ResetLeavesNothing := by
  refine ⟨fun cfg transport requests s reset => ?_, rfl⟩
  subst reset
  exact ⟨rfl, rfl, rfl, rfl, rfl, rfl, rfl, rfl, fbRead_none rfl, fun i => if_neg (Nat.not_lt_zero i),
    fun i => if_neg (Nat.not_lt_zero i), fun cycle => nomatch cycle.1⟩

/-- Settles O51: the first `READFRAME` starts a cycle at `SEEK` and reads nothing. -/
theorem resetLeavesTransport : Obligations.ResetLeavesTransport := by
  intro cfg transport rest admitted
  have requested : Requested (State.construct cfg transport (⟨10, .none⟩ :: rest)) ⟨10, .none⟩ rest :=
    ⟨fun cycle => (nomatch cycle.1), rfl⟩
  refine ⟨rfl, _, (step_of_request requested rfl).trans (exec_readFrame admitted), rfl, ?_⟩
  exact step_seeking rfl rfl

/-- Settles O52: there is no frame, no error and no result to be inconsistent with. -/
theorem resetIsConsistent : Obligations.ResetIsConsistent := fun _ _ _ =>
  consistent_of_noFrame rfl (Nat.zero_le _) rfl (fun h => nomatch h) (fun h => nomatch h) (fun h => absurd rfl h) rfl

/-! ### A consistent state goes on -/

/-- The operation ends, with a next state. -/
def Answers (o : Result State) : Prop := ∃ t, o = .next t

theorem answers_next (t : State) : Answers (.next t) := ⟨t, rfl⟩

theorem answers_endChecked {α : Type} (o : Except Int α) (reply : α → Reply) (s : State) :
    Answers (endChecked o reply s) := by
  obtain ⟨_, -, answer⟩ | ⟨_, -, answer⟩ := endChecked_next o reply s <;> exact ⟨_, answer⟩

theorem answers_hdrFrame {s : State} (admitted : s.cfg.preRead = none) (len : Byte) : Answers (exec (.hdrFrame len) s) := by
  rw [exec_hdrFrame admitted]
  split <;> exact answers_next _

/-- A header row always ends (43_framereader.md R174 to R178). -/
theorem answers_decodeHeader {s : State} (admitted : s.cfg.preRead = none) (k : Constants) (bytes : List Byte) :
    Answers (exec (decodeHeader k bytes) s) := by
  match bytes with
  | [] | [_] | [_, _] => exact ⟨_, exec_hdrDesync admitted _⟩
  | _ :: _ :: c :: _ =>
    simp only [decodeHeader]
    split
    · exact ⟨_, exec_hdrChatter admitted c⟩
    · exact answers_hdrFrame admitted c
    · exact ⟨_, exec_hdrDesync admitted _⟩

theorem answers_chatStep {s : State} (admitted : s.cfg.preRead = none) : Answers (chatStep s) := by
  have atMostOne := rxTake_length_le 1 s.transport
  match length : rxTake 1 s.transport, atMostOne with
  | [], _ => exact ⟨_, chatStep_noLength admitted length⟩
  | [n], _ =>
    rw [chatStep_length admitted length]
    split <;> exact answers_next _

theorem answers_unwrapSingle (s : State) : Answers (exec .unwrapSingle s) := by
  obtain ⟨some, none⟩ := unwrapSingleGivesFirstOrSentinel s
  rcases Nat.eq_zero_or_pos s.rcnt.toNat with h | h
  · exact ⟨_, none h⟩
  · exact ⟨_, some h⟩

/-- Under coherent constants the rule that a held frame selects finds every byte it reads: the frame has a payload byte for
each of the body length, since `LEN_OVERHEAD` counts the command byte at least. -/
theorem answers_selectRule {s : State} {len cmd : Byte} {p : List Byte} (coherent : Coherent s.cfg.constants)
    (held : HoldsFrame s (realFrame s.cfg.constants len (cmd :: p))) (length : p.length + 1 = len.toNat) :
    Answers (runRule (selectRule s.cfg.constants len (some cmd)) s) := by
  have overhead := coherent.overhead
  have payload : bodyLength s.cfg.constants len ≤ p.length := by
    rw [bodyLength]
    omega
  rw [← List.append_nil p] at held
  have lanes {bl : Int} (row : RowLength s.cfg.constants bl) (body : bodyLength s.cfg.constants len = bl) :
      Answers (decodeLanes bl s) := by
    obtain ⟨low, high, -⟩ := row
    exact ⟨_, decodeLanes_of_held held rfl (by omega) (by omega)⟩
  unfold selectRule
  split_ifs with short listA listB pair servo one
  · exact answers_next _
  · exact lanes coherent.listA listA
  · exact lanes coherent.listB listB
  · have low := coherent.pair.1
    exact ⟨_, decodeByte_of_held held (k := 1) (by omega)⟩
  · have low := coherent.pair.1
    exact ⟨_, execDecS16_of_held held (by omega)⟩
  · exact ⟨_, decodeByte_of_held held (k := 0) (by omega)⟩
  · change Answers (execDecOther s)
    rw [execDecOther]
    split
    · exact ⟨_, decodeByte_of_held held (k := 0) (by omega)⟩
    · exact answers_next _

theorem answers_decode {s : State} (consistent : Consistent s) (coherent : Coherent s.cfg.constants) (expected : Byte) :
    Answers (exec (.decode expected) s) := by
  cases valid : s.fvalid with
  | false => exact ⟨_, exec_decode_noFrame expected valid⟩
  | true =>
    obtain ⟨len, body, length, held⟩ := consistent.frame valid
    cases body with
    | nil =>
      have overhead := coherent.overhead
      exact ⟨_, exec_decode_empty held (BitVec.toNat_inj.mp length.symm) (by omega) expected⟩
    | cons cmd p =>
      rw [exec_decode_held held length]
      split
      · exact answers_selectRule coherent held length
      · exact answers_next _

theorem answers_operation {r : Request} {i : Instr} {s : State} (selected : SelectedBy r i) (consistent : Consistent s)
    (coherent : Coherent s.cfg.constants) (admitted : s.cfg.preRead = none) : Answers (exec i s) := by
  cases i with
  | encodeInt8 | encodeInt16 | buildCommandPayload => exact answers_endChecked _ _ s
  | decodeInt8 | decodeInt16 | angleToInt | coordToInt | intToAngle | intToCoord | flatten => exact answers_next _
  | unwrapSingle => exact answers_unwrapSingle s
  | decode expected => exact answers_decode consistent coherent expected
  | readFrame => exact ⟨_, exec_readFrame admitted⟩
  | hdrChatter | hdrFrame | hdrDesync | decList6 | decList4 | decS8Sec | decS16 | decS8 | decShort | decOther =>
    exact selected.elim

/-- Settles O54: inside a cycle a step always answers, and outside one every instruction that a request selects does. -/
theorem consistentStateGoesOn : Obligations.ConsistentStateGoesOn := by
  intro s consistent coherent admitted
  by_cases cycle : InCycle s
  · obtain ⟨waiting, seeking | chatter⟩ := cycle
    · rw [step_seeking waiting seeking]
      exact .inl (answers_decodeHeader (s := (rxRead 3 s).2) admitted _ _)
    · rw [step_chatter waiting chatter]
      exact .inl (answers_chatStep admitted)
  · cases requests : s.caller.requests with
    | nil => exact .inl ⟨s, step_idle cycle requests⟩
    | cons r rest =>
      cases decoded : decodeRequest r with
      | error why => exact .inr ⟨why, step_of_rejected ⟨cycle, requests⟩ decoded⟩
      | ok i =>
        rw [step_of_request ⟨cycle, requests⟩ decoded]
        have taken : Consistent (takeRequest rest s) := consistent_of_sameRegisters consistent rfl consistent.offending
        exact .inl (answers_operation (selectedBy_of_decodeRequest decoded) taken coherent admitted)

end Sys2Proof.Proofs

/-! PROOF. The laws of the codec: the integer codec is invertible (40_codec_integer.md), the unit scale rounds to nearest and its
round trips are bounded (41_codec_scale.md), `flatten` is idempotent (42_codec_payload.md). -/

namespace Sys2Proof.Proofs

open Sys2Proof.Machine Sys2Proof.Laws

/-! ### The integer codec -/

/-- A byte is the value modulo 256 of its signed value. -/
theorem byteOf_toInt_emod (b : Byte) : byteOf (b.toInt % 256) = b := by
  have byte := b.isLt
  have value := BitVec.toInt_eq_toNat_cond b
  refine BitVec.toNat_inj.mp ?_
  rw [byteOf_toNat (by omega) (by omega)]
  split at value <;> omega

theorem toInt_byteOf_emod {v : Int} (h : -128 ≤ v ∧ v ≤ 127) : (byteOf (v % 256)).toInt = v := by
  have unsigned := byteOf_toNat_cast (n := v % 256) (by omega) (by omega)
  have value := BitVec.toInt_eq_toNat_cond (byteOf (v % 256))
  split at value <;> omega

theorem wordBytes_toInt (hi lo : Byte) : wordBytes (hi ++ lo).toInt = [hi, lo] := by
  have high := hi.isLt
  have low := lo.isLt
  have word := append_toNat hi lo
  have value := BitVec.toInt_eq_toNat_cond (hi ++ lo)
  have first : byteOf ((hi ++ lo).toInt % 65536 / 256) = hi := by
    refine BitVec.toNat_inj.mp ?_
    rw [byteOf_toNat (by omega) (by omega)]
    split at value <;> omega
  have second : byteOf ((hi ++ lo).toInt % 65536 % 256) = lo := by
    refine BitVec.toNat_inj.mp ?_
    rw [byteOf_toNat (by omega) (by omega)]
    split at value <;> omega
  rw [wordBytes, first, second]

theorem toInt_wordBytes {v : Int} (h : -32768 ≤ v ∧ v ≤ 32767) :
    (byteOf (v % 65536 / 256) ++ byteOf (v % 65536 % 256)).toInt = v := by
  have high := byteOf_toNat_cast (n := v % 65536 / 256) (by omega) (by omega)
  have low := byteOf_toNat_cast (n := v % 65536 % 256) (by omega) (by omega)
  have word := append_toNat (byteOf (v % 65536 / 256)) (byteOf (v % 65536 % 256))
  have value := BitVec.toInt_eq_toNat_cond (byteOf (v % 65536 / 256) ++ byteOf (v % 65536 % 256))
  split at value <;> omega

theorem exec_encodeInt8_inRange {v : Int} (h : -128 ≤ v ∧ v ≤ 127) (s : State) :
    exec (.encodeInt8 v) s = .next (setReply (.bytes [byteOf (v % 256)]) (clearError s)) :=
  (exec_encodeInt8 v s).trans (endChecked_ok (int8Bytes_of_inRange h) .bytes s)

theorem exec_encodeInt16_inRange {v : Int} (h : -32768 ≤ v ∧ v ≤ 32767) (s : State) :
    exec (.encodeInt16 v) s = .next (setReply (.bytes (wordBytes v)) (clearError s)) :=
  (exec_encodeInt16 v s).trans (endChecked_ok (int16Bytes_of_inRange h) .bytes s)

/-- Settles O8: the signed value and the bytes determine each other. -/
theorem integerCodecRoundTrips : Obligations.IntegerCodecRoundTrips := by
  intro s s'
  refine ⟨fun v low high => ?_, fun v low high => ?_, fun hi lo => ?_, fun b => ?_⟩
  · refine ⟨_, _, _, _, exec_encodeInt16_inRange ⟨low, high⟩ s, rfl, exec_decodeInt16 _ _ s', ?_⟩
    exact congrArg Reply.integer (toInt_wordBytes ⟨low, high⟩)
  · refine ⟨_, _, _, exec_encodeInt8_inRange ⟨low, high⟩ s, rfl, exec_decodeInt8 _ s', ?_⟩
    exact congrArg Reply.integer (toInt_byteOf_emod ⟨low, high⟩)
  · have range : -32768 ≤ (hi ++ lo).toInt ∧ (hi ++ lo).toInt ≤ 32767 :=
      ⟨BitVec.le_toInt (hi ++ lo), Int.le_of_lt_add_one (BitVec.toInt_lt (x := hi ++ lo))⟩
    exact ⟨_, _, _, exec_decodeInt16 hi lo s, rfl, exec_encodeInt16_inRange range s',
      congrArg Reply.bytes (wordBytes_toInt hi lo), rfl⟩
  · have range : -128 ≤ b.toInt ∧ b.toInt ≤ 127 :=
      ⟨BitVec.le_toInt b, Int.le_of_lt_add_one (BitVec.toInt_lt (x := b))⟩
    exact ⟨_, _, _, exec_decodeInt8 b s, rfl, exec_encodeInt8_inRange range s',
      congrArg (fun byte => Reply.bytes [byte]) (byteOf_toInt_emod b), rfl⟩

/-! ### The unit scale -/

theorem exec_angleToInt (a : Rat) (s : State) :
    exec (.angleToInt a) s = .next (setReply (.integer (rnd s.cfg.tieRule (a * s.cfg.constants.angleScale))) s) := rfl

theorem exec_coordToInt (c : Rat) (s : State) :
    exec (.coordToInt c) s = .next (setReply (.integer (rnd s.cfg.tieRule (c * s.cfg.constants.coordScale))) s) := rfl

/-- Settles O9: `rnd_nearest` of the scaled operand. -/
theorem angleToIntRoundsToNearest : Obligations.AngleToIntRoundsToNearest := fun s a =>
  ⟨_, exec_angleToInt a s, rnd_nearest s.cfg.tieRule (a * s.cfg.constants.angleScale)⟩

/-- Settles O10: `rnd_nearest` of the scaled operand. -/
theorem coordToIntRoundsToNearest : Obligations.CoordToIntRoundsToNearest := fun s c =>
  ⟨_, exec_coordToInt c s, rnd_nearest s.cfg.tieRule (c * s.cfg.constants.coordScale)⟩

/-- A value with at most `d` decimal places is unchanged by rounding to `d` places. -/
theorem rndDigits_of_integer (t : TieRule) {q : Rat} {d : Nat} {n : Int} (h : q * 10 ^ d = n) : rndDigits t q d = q := by
  rw [rndDigits, h, rnd_intCast, ← h]
  exact mul_div_cancel_right₀ q (by positivity)

theorem exec_intToAngle_printed {s : State} (scale : s.cfg.constants.angleScale = 100) (raw : Int) :
    exec (.intToAngle raw) s = .next (setReply (.physical (raw / 100)) s) := by
  have units : unitsAngle s.cfg raw = raw / 100 := by
    rw [unitsAngle, scale]
    exact rndDigits_of_integer _ (n := raw * 10) (by push_cast; ring)
  rw [← units]
  rfl

theorem exec_intToCoord_printed {s : State} (scale : s.cfg.constants.coordScale = 10) (raw : Int) :
    exec (.intToCoord raw) s = .next (setReply (.physical (raw / 10)) s) := by
  have units : unitsCoord s.cfg raw = raw / 10 := by
    rw [unitsCoord, scale]
    exact rndDigits_of_integer _ (n := raw * 10) (by push_cast; ring)
  rw [← units]
  rfl

/-- Settles O11: hundredths and tenths have fewer decimal places than are rounded to. -/
theorem integersConvertExactly : Obligations.IntegersConvertExactly := fun _ raw =>
  ⟨fun scale => exec_intToAngle_printed scale raw, fun scale => exec_intToCoord_printed scale raw⟩

/-- Scaling up, rounding and scaling down again is off by at most half a unit. -/
theorem abs_rnd_mul_div_sub_le (t : TieRule) (q : Rat) {scale : Rat} (pos : 0 < scale) :
    |(rnd t (q * scale) : Rat) / scale - q| ≤ 1 / 2 / scale := by
  have nearest := (rnd_nearest t (q * scale)).1
  have scaled : (rnd t (q * scale) : Rat) / scale - q = -(q * scale - rnd t (q * scale)) / scale := by
    field_simp
    ring
  rw [scaled, abs_div, abs_neg, abs_of_pos pos]
  exact div_le_div_of_nonneg_right nearest pos.le

theorem rnd_div_mul_self (t : TieRule) (r : Int) {scale : Rat} (pos : 0 < scale) : rnd t (r / scale * scale) = r := by
  rw [div_mul_cancel₀ _ pos.ne', rnd_intCast]

/-- Settles O12: half a unit is 0.005 degrees or 0.05 mm, and an integer number of units is scaled back to itself. -/
theorem unitRoundTripsAreBounded : Obligations.UnitRoundTripsAreBounded := by
  intro s angleScale coordScale
  have angle : (s.cfg.constants.angleScale : Rat) = 100 := by rw [angleScale]; rfl
  have coord : (s.cfg.constants.coordScale : Rat) = 10 := by rw [coordScale]; rfl
  refine ⟨fun a => ?_, fun c => ?_, fun r => ?_, fun r => ?_⟩
  · refine ⟨_, _, _, _, exec_angleToInt a s, rfl, exec_intToAngle_printed angleScale _, rfl, ?_⟩
    rw [angle]
    exact (abs_rnd_mul_div_sub_le _ a (by norm_num)).trans (by norm_num)
  · refine ⟨_, _, _, _, exec_coordToInt c s, rfl, exec_intToCoord_printed coordScale _, rfl, ?_⟩
    rw [coord]
    exact (abs_rnd_mul_div_sub_le _ c (by norm_num)).trans (by norm_num)
  · refine ⟨_, _, _, exec_intToAngle_printed angleScale r, rfl, exec_angleToInt _ _, ?_⟩
    exact congrArg Reply.integer (by rw [setReply_cfg, angle]; exact rnd_div_mul_self _ r (by norm_num))
  · refine ⟨_, _, _, exec_intToCoord_printed coordScale r, rfl, exec_coordToInt _ _, ?_⟩
    exact congrArg Reply.integer (by rw [setReply_cfg, coord]; exact rnd_div_mul_self _ r (by norm_num))

/-- Integers nearest to a value and to its negative fail to be opposite only at a tie, and then by one. -/
theorem tie_of_nearest_not_opposite {q : Rat} {n m : Int} (near : |q - n| ≤ 1 / 2) (near' : |-q - m| ≤ 1 / 2)
    (not_opposite : n + m ≠ 0) : (n + m = 1 ∨ n + m = -1) ∧ |q - n| = 1 / 2 ∧ |-q - m| = 1 / 2 := by
  obtain ⟨low, high⟩ := abs_le.mp near
  obtain ⟨low', high'⟩ := abs_le.mp near'
  have range : -1 ≤ n + m ∧ n + m ≤ 1 := by
    have rational : (-1 : Rat) ≤ n + m ∧ (n + m : Rat) ≤ 1 := ⟨by linarith, by linarith⟩
    exact_mod_cast rational
  have byOne : n + m = 1 ∨ n + m = -1 := by omega
  refine ⟨byOne, ?_⟩
  obtain one | minusOne := byOne
  · have sum : (n + m : Rat) = 1 := by exact_mod_cast one
    rw [abs_of_nonpos (by linarith), abs_of_nonpos (by linarith)]
    constructor <;> linarith
  · have sum : (n + m : Rat) = -1 := by exact_mod_cast minusOne
    rw [abs_of_nonneg (by linarith), abs_of_nonneg (by linarith)]
    constructor <;> linarith

/-- At a tie both integers are even, so their sum is not odd. -/
theorem rnd_neg_toEven (q : Rat) : rnd .toEven (-q) = -rnd .toEven q := by
  obtain ⟨near, even⟩ := rnd_nearest .toEven q
  obtain ⟨near', even'⟩ := rnd_nearest .toEven (-q)
  by_contra not_opposite
  obtain ⟨byOne, tie, tie'⟩ := tie_of_nearest_not_opposite near near' (by omega)
  have n_even := even rfl tie
  have m_even := even' rfl tie'
  omega

/-- Settles O13: both operations round the scaled operand, and scaling is odd. -/
theorem roundingIsOdd : Obligations.RoundingIsOdd := by
  intro s q toEven
  refine ⟨⟨_, _, _, exec_angleToInt q s, rfl, exec_angleToInt (-q) s, ?_⟩,
    ⟨_, _, _, exec_coordToInt q s, rfl, exec_coordToInt (-q) s, ?_⟩⟩ <;>
  exact congrArg Reply.integer (by rw [toEven, neg_mul, rnd_neg_toEven])

/-! ### Payload assembly -/

/-- Settles O15: the flat sequence is what `flatten` hands back of its own items. -/
theorem flattenIsIdempotent : Obligations.FlattenIsIdempotent := by
  intro s
  have flat (xs : List Rat) : exec (.flatten (nestedOfList xs)) s = .next (setReply (.sequence xs) s) := by
    rw [exec_flatten, flattenSeq_nestedOfList]
  exact ⟨flat, fun n => ⟨_, _, exec_flatten n s, rfl, flat _⟩⟩

end Sys2Proof.Proofs

/-! PROOF. Which requests are instructions (30_encoding.md R95, 42_codec_payload.md R150, R154): operands that do not fit their
port, token streams that are not bracketed, and argument lists of another shape are refused by name. -/

namespace Sys2Proof.Proofs

open Sys2Proof.Machine Sys2Proof.Laws

/-! ### Operands that do not fit -/

theorem decodeRequest_reserved {op : BitVec 4} (reserved : 13 ≤ op.toNat) (o : Operand) :
    decodeRequest ⟨op, o⟩ = .error (.reservedOp op) := by
  have none : operations[op.toNat]? = Option.none := List.getElem?_eq_none reserved
  simp only [decodeRequest, none]

theorem fit_of_none {α : Type} {op : BitVec 4} {port : Option α} (make : α → Instr) (none : port = Option.none) :
    fit op port make = .error (.operandPort op) := by
  subst none
  rfl

theorem intPort_eq_none {o : Operand} (other : ∀ v, o ≠ .int v) : intPort o = none := by
  cases o with
  | int v => exact absurd rfl (other v)
  | none | bytes | phys | tokens => rfl

theorem physPort_eq_none {o : Operand} (other : ∀ q, o ≠ .phys q) : physPort o = none := by
  cases o with
  | phys q => exact absurd rfl (other q)
  | none | bytes | int | tokens => rfl

theorem fitByte_of_other {op : BitVec 4} {o : Operand} (make : Byte → Instr) (other : ∀ b, o ≠ .bytes [b]) :
    fitByte op o make = .error (.operandPort op) := by
  cases fitted : fitByte op o make with
  | ok i =>
    obtain ⟨b, port, -⟩ := fitByte_eq_ok fitted
    exact absurd port (other b)
  | error why =>
    unfold fitByte at fitted
    split at fitted <;> cases fitted
    rfl

theorem fitPair_of_other {op : BitVec 4} {o : Operand} (make : Byte → Byte → Instr) (other : ∀ b c, o ≠ .bytes [b, c]) :
    fitPair op o make = .error (.operandPort op) := by
  cases fitted : fitPair op o make with
  | ok i =>
    obtain ⟨b, c, port, -⟩ := fitPair_eq_ok fitted
    exact absurd port (other b c)
  | error why =>
    unfold fitPair at fitted
    split at fitted <;> cases fitted
    rfl

theorem fitTokens_of_other {α : Type} {op : BitVec 4} {o : Operand} (read : Nested → Option α) (make : α → Instr)
    (other : ∀ ts, o ≠ .tokens ts) : fitTokens op o read make = .error (.operandPort op) := by
  cases o with
  | tokens ts => exact absurd rfl (other ts)
  | none | bytes | phys | int => rfl

theorem fitNone_of_other {op : BitVec 4} {o : Operand} (i : Instr) (other : o ≠ .none) :
    fitNone op o i = .error (.operandPort op) :=
  if_neg other

theorem fitTokens_of_shape {α : Type} {op : BitVec 4} {read : Nested → Option α} (make : α → Instr) {n : Nested}
    (shape : read n = none) : fitTokens op (.tokens (tokensOf n)) read make = .error .payloadShape := by
  simp only [fitTokens, tokensPort, parseTokens_tokensOf, shape]

theorem fitTokens_of_brackets {α : Type} {op : BitVec 4} (read : Nested → Option α) (make : α → Instr)
    {ts : List Token} (brackets : parseTokens ts = none) :
    fitTokens op (.tokens ts) read make = .error .tokenBrackets := by
  simp only [fitTokens, tokensPort, brackets]

theorem decodeRequest_otherKind {op : BitVec 4} {o : Operand}
    (other : op ∈ [0#4, 1#4, 6#4, 7#4] ∧ (∀ v, o ≠ .int v) ∨ op ∈ [2#4, 3#4, 11#4] ∧ (∀ bs, o ≠ .bytes bs) ∨
      op ∈ [4#4, 5#4] ∧ (∀ q, o ≠ .phys q) ∨ op ∈ [8#4, 9#4] ∧ (∀ ts, o ≠ .tokens ts) ∨
      op ∈ [10#4, 12#4] ∧ o ≠ .none) :
    decodeRequest ⟨op, o⟩ = .error (.operandPort op) := by
  simp only [List.mem_cons, List.not_mem_nil, or_false] at other
  obtain ⟨rfl | rfl | rfl | rfl, kind⟩ | ⟨rfl | rfl | rfl, kind⟩ | ⟨rfl | rfl, kind⟩ | ⟨rfl | rfl, kind⟩ |
    ⟨rfl | rfl, kind⟩ := other
  · exact fit_of_none _ (intPort_eq_none kind)
  · exact fit_of_none _ (intPort_eq_none kind)
  · exact fit_of_none _ (intPort_eq_none kind)
  · exact fit_of_none _ (intPort_eq_none kind)
  · exact fitByte_of_other _ fun b => kind [b]
  · exact fitPair_of_other _ fun b c => kind [b, c]
  · exact fitByte_of_other _ fun b => kind [b]
  · exact fit_of_none _ (physPort_eq_none kind)
  · exact fit_of_none _ (physPort_eq_none kind)
  · exact fitTokens_of_other some .flatten kind
  · exact fitTokens_of_other argsOf .buildCommandPayload kind
  · exact fitNone_of_other _ kind
  · exact fitNone_of_other _ kind

/-- Settles O48: no operand of another kind passes the port of its operation. -/
theorem otherOperandKindsAreRefused : Obligations.OtherOperandKindsAreRefused := by
  intro s op o rest requested other
  exact step_of_rejected requested (decodeRequest_otherKind other)

/-! ### Argument lists (R154) -/

theorem scalar_eq_intCast_iff (v : Rat) : (∃ w : Int, Item.scalar v = .scalar w) ↔ v.den = 1 := by
  constructor
  · rintro ⟨w, eq⟩
    cases eq
    rfl
  · intro h
    exact ⟨v.num, congrArg Item.scalar (Rat.coe_int_num_of_den_eq_one h).symm⟩

/-- A flat sequence of integers has integers alone among its items. -/
theorem flatIntegers_isSome_iff (m : Nested) :
    (flatIntegers m).isSome ↔ ∀ i ∈ itemsOf m, ∃ v : Int, i = .scalar v := by
  induction m with
  | nil => simp [flatIntegers, itemsOf]
  | scalar v rest ih =>
    rw [itemsOf, List.forall_mem_cons, scalar_eq_intCast_iff, ← ih, flatIntegers]
    split <;> simp_all
  | seq inner rest => simp [flatIntegers, itemsOf]

/-- An argument list has flat sequences of integers alone among its inner sequences. -/
theorem argsOf_isSome_iff (n : Nested) :
    (argsOf n).isSome ↔ ∀ inner, .seq inner ∈ itemsOf n → ∀ i ∈ itemsOf inner, ∃ v : Int, i = .scalar v := by
  simp only [← flatIntegers_isSome_iff]
  induction n with
  | nil => simp [argsOf, itemsOf]
  | scalar v rest ih => simp [argsOf, itemsOf, ih]
  | seq inner rest _ ih =>
    simp only [argsOf, itemsOf, List.mem_cons, Item.seq.injEq, forall_eq_or_imp, ← ih]
    cases flatIntegers inner <;> simp

/-- An inner item that is no integer keeps the sequence from being an argument list. -/
theorem argsOf_eq_none {n inner : Nested} {i : Item} (item : .seq inner ∈ itemsOf n) (innerItem : i ∈ itemsOf inner)
    (noInteger : ¬ ∃ v : Int, i = .scalar v) : argsOf n = none := by
  rw [← Option.not_isSome_iff_eq_none, argsOf_isSome_iff]
  exact fun integers => noInteger (integers inner item i innerItem)

/-- Settles O47: no reserved code selects an operation, no other number of bytes fits a port, and neither a sequence nor a
scalar that is no integer is an item of an inner list. -/
theorem inadmissibleRequestsAreRefused : Obligations.InadmissibleRequestsAreRefused := by
  intro s rest
  refine ⟨fun op o reserved requested => ?_, fun op bs code length requested => ?_, fun bs length requested => ?_,
    fun n inner deeper item innerItem requested => ?_, fun n inner v item innerItem fraction requested => ?_⟩
  · exact step_of_rejected requested (decodeRequest_reserved reserved o)
  · have other (b : Byte) : Operand.bytes bs ≠ .bytes [b] := by
      rintro ⟨⟩
      exact length rfl
    obtain rfl | rfl := code
    · exact step_of_rejected requested (fitByte_of_other .decodeInt8 other)
    · exact step_of_rejected requested (fitByte_of_other .decode other)
  · have other (b c : Byte) : Operand.bytes bs ≠ .bytes [b, c] := by
      rintro ⟨⟩
      exact length rfl
    exact step_of_rejected requested (fitPair_of_other .decodeInt16 other)
  · have shape : argsOf n = none := argsOf_eq_none item innerItem (by rintro ⟨_, ⟨⟩⟩)
    exact step_of_rejected requested (fitTokens_of_shape .buildCommandPayload shape)
  · have shape : argsOf n = none := argsOf_eq_none item innerItem (mt (scalar_eq_intCast_iff v).mp fraction)
    exact step_of_rejected requested (fitTokens_of_shape .buildCommandPayload shape)

theorem nestedOfList_of_flatIntegers {m : Nested} {vs : List Int} (h : flatIntegers m = some vs) :
    nestedOfList (vs.map fun v : Int => (v : Rat)) = m := by
  induction m generalizing vs with
  | nil =>
    cases h
    rfl
  | scalar v rest ih =>
    rw [flatIntegers] at h
    split at h
    · next integer =>
      obtain ⟨ws, integers, rfl⟩ := Option.map_eq_some_iff.mp h
      rw [List.map_cons, nestedOfList, ih integers, Rat.coe_int_num_of_den_eq_one integer]
    · cases h
  | seq inner rest => cases h

/-- The arguments read from a sequence spell it again. -/
theorem nestedOfArgs_of_argsOf {n : Nested} {args : List Arg} (h : argsOf n = some args) : nestedOfArgs args = n := by
  induction n generalizing args with
  | nil =>
    cases h
    rfl
  | scalar v rest ih =>
    obtain ⟨others, read, rfl⟩ := Option.map_eq_some_iff.mp h
    rw [nestedOfArgs, ih read]
  | seq inner rest _ ih =>
    obtain ⟨vs, integers, h⟩ := Option.bind_eq_some_iff.mp h
    obtain ⟨others, read, rfl⟩ := Option.map_eq_some_iff.mp h
    rw [nestedOfArgs, nestedOfList_of_flatIntegers integers, ih read]

/-! ### Token streams (R150) -/

/-- What spells the sequences around an innermost one that is still open: each after the `CLOSE` of the one inside it. -/
def closings (stack : List Nested) : List Token := stack.flatMap fun n => .closeSeq :: tokensOf n

theorem closings_cons (n : Nested) (stack : List Nested) :
    closings (n :: stack) = .closeSeq :: (tokensOf n ++ closings stack) := rfl

/-- A properly bracketed stream with `depth` sequences open at its start spells the rest of these sequences. -/
theorem exists_spelled_of_bracketed {ts : List Token} {depth : Nat} (brackets : bracketed depth ts = true) :
    ∃ n stack, stack.length = depth ∧ tokensOf n ++ closings stack = ts := by
  induction ts generalizing depth with
  | nil => exact ⟨.nil, [], (beq_iff_eq.mp brackets).symm, rfl⟩
  | cons t ts ih =>
    cases t with
    | scalar v =>
      obtain ⟨n, stack, depth, rfl⟩ := ih brackets
      exact ⟨.scalar v n, stack, depth, rfl⟩
    | openSeq =>
      obtain ⟨inner, outer, opened, rfl⟩ := ih brackets
      obtain ⟨n, stack, rfl⟩ := List.exists_cons_of_length_eq_add_one opened
      refine ⟨.seq inner n, stack, Nat.succ.inj opened, ?_⟩
      simp only [tokensOf, closings_cons, List.cons_append, List.append_assoc]
    | closeSeq =>
      cases depth with
      | zero => cases brackets
      | succ depth =>
        obtain ⟨n, stack, rfl, rfl⟩ := ih brackets
        exact ⟨.nil, n :: stack, rfl, rfl⟩

/-- What the parser reads is properly bracketed, with a sequence open at the start for each one under the innermost. -/
theorem bracketed_of_foldr {ts : List Token} {n : Nested} {stack : List Nested}
    (h : ts.foldr tokenStep (some [.nil]) = some (n :: stack)) : bracketed stack.length ts = true := by
  induction ts generalizing n stack with
  | nil =>
    cases h
    rfl
  | cons t ts ih =>
    rw [List.foldr_cons] at h
    unfold tokenStep at h
    split at h
    · next read =>
      cases h
      exact ih read
    · next read =>
      cases h
      exact ih read
    · next read =>
      cases h
      exact ih read
    · cases h

theorem parseTokens_of_unbracketed {ts : List Token} (unbracketed : bracketed 0 ts = false) : parseTokens ts = none := by
  unfold parseTokens
  split
  · next read => cases unbracketed.symm.trans (bracketed_of_foldr read)
  · rfl

/-- Settles O49: bracketed streams are spelled by a sequence, parsed streams are bracketed, and sequences of the admitted shape
are argument lists. -/
theorem tokenStreamsSpellSequences : Obligations.TokenStreamsSpellSequences := by
  refine ⟨fun ts brackets => ?_, fun s op ts rest code unbracketed requested => ?_, fun n integers => ?_⟩
  · obtain ⟨n, stack, outermost, rfl⟩ := exists_spelled_of_bracketed brackets
    obtain rfl := List.length_eq_zero_iff.mp outermost
    refine ⟨n, (List.append_nil _).symm, ?_⟩
    rw [closings, List.flatMap_nil, List.append_nil]
    exact fitTokens_tokensOf n rfl
  · have brackets := parseTokens_of_unbracketed unbracketed
    obtain rfl | rfl := code
    · exact step_of_rejected requested (fitTokens_of_brackets some .flatten brackets)
    · exact step_of_rejected requested (fitTokens_of_brackets argsOf .buildCommandPayload brackets)
  · obtain ⟨args, read⟩ := Option.isSome_iff_exists.mp ((argsOf_isSome_iff n).mpr integers)
    exact ⟨args, nestedOfArgs_of_argsOf read, fitTokens_tokensOf n read⟩

end Sys2Proof.Proofs

/-! PROOF. Whole read cycles (43_framereader.md R170 to R180): runs of steps over listed bytes, the chatter loop, and the
pseudocode of the whole cycle. -/

namespace Sys2Proof.Proofs

open Sys2Proof.Machine Sys2Proof.Laws

/-! ### Runs -/

theorem run_zero (s : State) : Host.Core.run core 0 s = .next s := rfl

theorem run_succ {s t : State} (h : step s = .next t) (k : Nat) :
    Host.Core.run core (k + 1) s = Host.Core.run core k t := by
  have first : core.step s = .next t := h
  simp only [Host.Core.run, first]

theorem run_one {s t : State} (h : step s = .next t) : Host.Core.run core 1 s = .next t :=
  (run_succ h 0).trans (run_zero t)

theorem run_succ_eq_next {s t : State} {k : Nat} (h : Host.Core.run core (k + 1) s = .next t) :
    ∃ u, step s = .next u ∧ Host.Core.run core k u = .next t := by
  cases first : step s with
  | next u => exact ⟨u, rfl, (run_succ first k).symm.trans h⟩
  | fault r =>
    have stopped : core.step s = .fault r := first
    simp only [Host.Core.run, stopped] at h
    cases h
  | refused r =>
    have stopped : core.step s = .refused r := first
    simp only [Host.Core.run, stopped] at h
    cases h

theorem run_add {s t : State} {k : Nat} (h : Host.Core.run core k s = .next t) (j : Nat) :
    Host.Core.run core (k + j) s = Host.Core.run core j t := by
  induction k generalizing s with
  | zero =>
    cases h
    rw [Nat.zero_add]
  | succ k ih =>
    obtain ⟨u, first, rest⟩ := run_succ_eq_next h
    rw [Nat.succ_add, run_succ first, ih rest]

/-! ### A finite stream ends the cycle (R180) -/

/-- The cycle has ended in a terminal state (R184). -/
def CycleOver (t : State) : Prop := t.caller.waiting = false ∧ (t.st = .frameFound ∨ t.st = .readError)

/-- A step inside a cycle ends it, or consumes some bytes and goes on. -/
theorem step_inCycle {s : State} (cycle : InCycle s) (admitted : s.cfg.preRead = none) :
    ∃ t, step s = .next t ∧
      (CycleOver t ∨ InCycle t ∧ ∃ used, used ≠ [] ∧ Consumes used s.transport t.transport) := by
  obtain ⟨waiting, seeking | chatter⟩ := cycle
  · rw [step_seeking waiting seeking]
    obtain ⟨t, answer⟩ := answers_decodeHeader (s := (rxRead 3 s).2) admitted s.cfg.constants (rxTake 3 s.transport)
    refine ⟨t, answer, ?_⟩
    obtain ⟨consumed, three⟩ | _ | _ | _ := seekEnds_of_exec answer
    · exact .inr ⟨⟨waiting, .inr rfl⟩, _, List.ne_nil_of_length_eq_add_one three, consumed⟩
    · exact .inl ⟨rfl, .inr rfl⟩
    · exact .inl ⟨rfl, .inr rfl⟩
    · exact .inl ⟨rfl, .inl rfl⟩
  · rw [step_chatter waiting chatter]
    obtain ⟨t, answer⟩ := answers_chatStep admitted
    refine ⟨t, answer, ?_⟩
    obtain ⟨used, left, consumed, rfl | ⟨some, rfl⟩⟩ := chatStep_counts answer
    · exact .inl ⟨rfl, .inr rfl⟩
    · exact .inr ⟨⟨waiting, .inl rfl⟩, used, some, consumed⟩

theorem cycle_ends {n : Nat} {s : State} (cycle : InCycle s) (admitted : s.cfg.preRead = none)
    (ends : s.transport.again = []) (length : s.transport.rx.length ≤ n) :
    ∃ k t, k ≤ n + 1 ∧ Host.Core.run core k s = .next t ∧ CycleOver t := by
  induction n generalizing s with
  | zero =>
    obtain ⟨t, answer, ended | ⟨-, used, some, consumed⟩⟩ := step_inCycle cycle admitted
    · exact ⟨1, t, le_rfl, run_one answer, ended⟩
    · have stream := congrArg List.length (consumed.stream ends)
      rw [List.length_append] at stream
      exact absurd (List.length_eq_zero_iff.mp (by omega)) some
  | succ n ih =>
    obtain ⟨t, answer, ended | ⟨goesOn, used, some, consumed⟩⟩ := step_inCycle cycle admitted
    · exact ⟨1, t, Nat.le_add_left 1 _, run_one answer, ended⟩
    · have stream := congrArg List.length (consumed.stream ends)
      have progress := List.length_pos_iff.mpr some
      rw [List.length_append] at stream
      obtain ⟨k, u, bound, run, ended⟩ := ih goesOn ((step_consumes answer).1 ▸ admitted) (consumed.again.trans ends)
        (by omega)
      exact ⟨k + 1, u, by omega, (run_succ answer k).trans run, ended⟩

/-- Settles O29: every step that does not end the cycle takes at least one byte of the stream. -/
theorem finiteStreamEndsCycle : Obligations.FiniteStreamEndsCycle := fun _ cycle admitted ends =>
  cycle_ends cycle admitted ends le_rfl

/-! ### Step `SEEK` over listed bytes -/

/-- This many more bytes have been consumed, and these are left. -/
def advancedTo (n : Nat) (rest : List Byte) (t : Transport) : Transport :=
  { t with rx := rest, cursor := t.cursor + n }

theorem advancedTo_advancedTo (n m : Nat) (rest rest' : List Byte) (t : Transport) :
    advancedTo m rest' (advancedTo n rest t) = advancedTo (n + m) rest' t := by
  simp only [advancedTo, Nat.add_assoc]

theorem skippedTo_skippedTo (n m : Nat) (t t' : Transport) (s : State) :
    skippedTo m t' (skippedTo n t s) = skippedTo (n + m) t' s := by
  simp only [skippedTo, BitVec.ofNat_add, BitVec.add_assoc]

theorem skippedTo_zero (s : State) : skippedTo 0 s.transport s = s := by
  simp only [skippedTo, BitVec.add_zero]

theorem setSeq_self {s : State} {q : SeqState} (h : s.st = q) : setSeq q s = s := by
  subst h
  rfl

/-- The block stands at `SEEK` of a read cycle, and the transport hands back all it is asked for. -/
structure AtSeek (s : State) : Prop where
  waiting : s.caller.waiting = true
  seeking : s.st = .seekingFrame
  admitted : s.cfg.preRead = none
  answers : s.transport.answers = []

theorem atSeek_skippedTo {s : State} (atSeek : AtSeek s) (k n : Nat) (rest : List Byte) :
    AtSeek (skippedTo k (advancedTo n rest s.transport) s) :=
  ⟨atSeek.waiting, atSeek.seeking, atSeek.admitted, atSeek.answers⟩

/-- The state after a chatter header, before its length byte (R174). -/
def chatterSeen (rest : List Byte) (s : State) : State :=
  setSeq .readingChatter (skippedTo 3 (advancedTo 3 rest s.transport) s)

section AtSeek

variable {s : State} (atSeek : AtSeek s)
include atSeek

theorem step_header {h0 h1 h2 : Byte} {rest : List Byte} (stream : s.transport.rx = h0 :: h1 :: h2 :: rest) :
    step s = exec (decodeHeader s.cfg.constants [h0, h1, h2]) { s with transport := advancedTo 3 rest s.transport } := by
  obtain ⟨header, advanced⟩ := rxTake_begins (bytes := [h0, h1, h2]) (rest := rest) (n := 3) stream atSeek.answers rfl
  rw [step_seeking atSeek.waiting atSeek.seeking, header, rxRead, advanced]
  rfl

theorem step_chatterHeader {h0 h1 h2 : Byte} {rest : List Byte} (stream : s.transport.rx = h0 :: h1 :: h2 :: rest)
    (chatter : h0 = s.cfg.constants.hdrChat ∧ h1 = s.cfg.constants.hdrChat) : step s = .next (chatterSeen rest s) := by
  rw [step_header atSeek stream, decodeHeader_of_chatter_marker h2 chatter]
  exact exec_hdrChatter (s := { s with transport := advancedTo 3 rest s.transport }) atSeek.admitted h2

theorem step_chatterSeen (rest : List Byte) : step (chatterSeen rest s) = chatStep (chatterSeen rest s) :=
  step_chatter atSeek.waiting rfl

/-- One chatter frame takes two steps, which bring the block back to `SEEK` behind it (R174, R175). -/
theorem run_chatterFrame {h0 h1 instr n : Byte} {body rest : List Byte}
    (stream : s.transport.rx = h0 :: h1 :: instr :: n :: (body ++ rest))
    (chatter : h0 = s.cfg.constants.hdrChat ∧ h1 = s.cfg.constants.hdrChat) (length : body.length = n.toNat) :
    Host.Core.run core 2 s =
      .next (skippedTo (4 + n.toNat) (advancedTo (4 + n.toNat) rest s.transport) s) := by
  have counted : 4 + n.toNat = 3 + (1 + n.toNat) := by omega
  have seeking : (skippedTo (4 + n.toNat) (advancedTo (4 + n.toNat) rest s.transport) s).st = .seekingFrame :=
    atSeek.seeking
  have body_step := chatStep_begins (s := chatterSeen (n :: (body ++ rest)) s) atSeek.admitted atSeek.answers rfl length
  rw [run_succ (step_chatterHeader atSeek stream chatter), run_one ((step_chatterSeen atSeek _).trans body_step),
    ← setSeq_self seeking, counted, ← advancedTo_advancedTo 3 _ (n :: (body ++ rest)),
    ← skippedTo_skippedTo 3 _ (advancedTo 3 (n :: (body ++ rest)) s.transport)]
  rfl

end AtSeek

/-! ### The chatter loop (R179) -/

theorem chatterFrame_length (k : Constants) (instr : Byte) (body : List Byte) :
    (chatterFrame k instr body).length = 4 + body.length := by
  rw [chatterFrame, List.length_append]
  rfl

theorem run_chatterFrame_of_append {s : State} (atSeek : AtSeek s) {instr : Byte} {body rest : List Byte}
    (fits : body.length ≤ 255) (stream : s.transport.rx = chatterFrame s.cfg.constants instr body ++ rest) :
    Host.Core.run core 2 s =
      .next (skippedTo (chatterFrame s.cfg.constants instr body).length
        (advancedTo (chatterFrame s.cfg.constants instr body).length rest s.transport) s) := by
  have length : body.length = (BitVec.ofNat 8 body.length).toNat := by rw [BitVec.toNat_ofNat]; omega
  have run := run_chatterFrame atSeek stream ⟨rfl, rfl⟩ length
  rwa [← length, ← chatterFrame_length s.cfg.constants instr body] at run

/-- Any number of chatter frames is skipped and counted, two steps for each. -/
theorem run_chatterFrames {s : State} (atSeek : AtSeek s) {chatter : List (Byte × List Byte)} {rest : List Byte}
    (fits : ∀ c ∈ chatter, c.2.length ≤ 255) {frames : List Byte}
    (spelled : frames = chatter.flatMap fun c => chatterFrame s.cfg.constants c.1 c.2)
    (stream : s.transport.rx = frames ++ rest) :
    Host.Core.run core (2 * chatter.length) s =
      .next (skippedTo frames.length (advancedTo frames.length rest s.transport) s) := by
  induction chatter generalizing s frames with
  | nil =>
    subst spelled
    obtain rfl : s.transport.rx = rest := stream
    exact congrArg Host.Outcome.next (skippedTo_zero s).symm
  | cons c chatter ih =>
    obtain ⟨c_fits, fits⟩ := List.forall_mem_cons.mp fits
    subst spelled
    rw [List.flatMap_cons, List.append_assoc] at stream
    have first := run_chatterFrame_of_append atSeek c_fits stream
    rw [List.length_cons, Nat.mul_succ, Nat.add_comm, run_add first,
      ih (atSeek_skippedTo atSeek _ _ _) fits rfl rfl]
    simp only [skippedTo_skippedTo, List.flatMap_cons, List.length_append]
    rw [← advancedTo_advancedTo]
    rfl

section RealFrame

variable {s : State} (atSeek : AtSeek s) {h0 h1 len : Byte}
  (notChatter : ¬ (h0 = s.cfg.constants.hdrChat ∧ h1 = s.cfg.constants.hdrChat))
  (real : h0 = s.cfg.constants.hdrReal ∧ h1 = s.cfg.constants.hdrReal)
include atSeek notChatter real

theorem step_realFrame {body rest : List Byte} (stream : s.transport.rx = h0 :: h1 :: len :: (body ++ rest))
    (length : body.length = len.toNat) :
    step s = .next (storedFrame len body { s with transport := advancedTo (3 + len.toNat) rest s.transport }) := by
  obtain ⟨bytes, left⟩ := counted_begins (t := advancedTo 3 (body ++ rest) s.transport) rfl atSeek.answers length
  have answer := exec_hdrFrame_whole (s := { s with transport := advancedTo 3 (body ++ rest) s.transport })
    atSeek.admitted (len := len) (by rw [bytes, length])
  rw [step_header atSeek stream, decodeHeader_of_real_marker len notChatter real, answer, bytes, left,
    ← advancedTo_advancedTo 3 len.toNat (body ++ rest)]
  rfl

theorem step_cutFrame {body : List Byte} (ends : s.transport.again = [])
    (stream : s.transport.rx = h0 :: h1 :: len :: body) (few : body.length < len.toNat) :
    step s = .next (failIncomplete { s with transport := advancedTo (3 + body.length) [] s.transport }) := by
  obtain ⟨bytes, left⟩ := counted_ends (t := advancedTo 3 body s.transport) (n := len.toNat) ends atSeek.answers few
  have answer := exec_hdrFrame_short (s := { s with transport := advancedTo 3 body s.transport })
    atSeek.admitted (len := len) (by rw [bytes]; exact few)
  rw [step_header atSeek stream, decodeHeader_of_real_marker len notChatter real, answer, left,
    ← advancedTo_advancedTo 3 body.length body]
  rfl

end RealFrame

/-- A `READFRAME` request brings the block to `SEEK`. -/
theorem atSeek_startCycle {s : State} (rest : List Request) (admitted : s.cfg.preRead = none)
    (answers : s.transport.answers = []) : AtSeek (startCycle (takeRequest rest s)) :=
  ⟨rfl, rfl, admitted, answers⟩

theorem step_readFrame {s : State} {rest : List Request} (requested : Requested s ⟨10, .none⟩ rest)
    (admitted : s.cfg.preRead = none) : step s = .next (startCycle (takeRequest rest s)) :=
  (step_of_request requested rfl).trans (exec_readFrame (s := takeRequest rest s) admitted)

/-- Settles O27: the request, `run_chatterFrames`, and the header row of the real frame. -/
theorem readFrameSkipsChatterAndFindsFrame : Obligations.ReadFrameSkipsChatterAndFindsFrame := by
  intro s rest chatter len body after requested admitted markers fits length begins
  obtain ⟨stream, answers⟩ := begins
  obtain ⟨frames, spelled⟩ : ∃ frames, frames = chatter.flatMap fun c => chatterFrame s.cfg.constants c.1 c.2 := ⟨_, rfl⟩
  rw [← spelled] at stream ⊢
  rw [List.append_assoc] at stream
  have atSeek := atSeek_startCycle rest admitted answers
  have skipped := run_chatterFrames atSeek fits spelled stream
  have found := step_realFrame (atSeek_skippedTo atSeek frames.length frames.length _) (h0 := s.cfg.constants.hdrReal)
    (h1 := s.cfg.constants.hdrReal) (len := len) (fun chat => markers chat.1) ⟨rfl, rfl⟩ (body := body) (rest := after)
    rfl length
  have run := (run_succ (step_readFrame requested admitted) _).trans ((run_add skipped 1).trans (run_one found))
  exact ⟨_, run, holdsFrame_storedFrame length, rfl, rfl, rfl, rfl, rfl, rfl, Nat.add_assoc _ _ _, rfl, rfl, rfl⟩

/-! ### An endless stream (R180) -/

/-- The block stands at `SEEK` before whole copies of one chatter frame, which the device repeats for ever. -/
structure Chattering (instr : Byte) (body : List Byte) (s : State) : Prop where
  atSeek : AtSeek s
  fits : body.length ≤ 255
  again : s.transport.again = chatterFrame s.cfg.constants instr body
  listed : ∃ m, s.transport.rx = (List.replicate m s.transport.again).flatten

/-- A header read over too few listed bytes is the read over what is then available. -/
theorem step_refill {s : State} (waiting : s.caller.waiting = true) (seeking : s.st = .seekingFrame)
    (enough : 3 ≤ (rxAvailable 3 s.transport).length) :
    step s = step { s with transport := { s.transport with rx := rxAvailable 3 s.transport } } := by
  have available : rxAvailable 3 { s.transport with rx := rxAvailable 3 s.transport } = rxAvailable 3 s.transport :=
    rxAvailable_listed (.inr enough)
  rw [step_seeking waiting seeking,
    step_seeking (s := { s with transport := { s.transport with rx := rxAvailable 3 s.transport } }) waiting seeking]
  simp only [rxRead, rxAdvance, rxTake, available]
  rfl

theorem run_congr {s s' : State} (h : step s = step s') (k : Nat) :
    Host.Core.run core (k + 1) s = Host.Core.run core (k + 1) s' := by
  have first : core.step s = core.step s' := h
  simp only [Host.Core.run, first]

/-- Two steps take the block over one copy, and leave whole copies. -/
theorem run_chattering_copies {instr : Byte} {body : List Byte} {s : State} {m : Nat} (atSeek : AtSeek s)
    (fits : body.length ≤ 255) (again : s.transport.again = chatterFrame s.cfg.constants instr body)
    (listed : s.transport.rx = (List.replicate (m + 1) s.transport.again).flatten) :
    ∃ t, Host.Core.run core 2 s = .next t ∧ Chattering instr body t ∧ t.fvalid = s.fvalid ∧
      t.skipped = s.skipped + BitVec.ofNat 32 (4 + body.length) := by
  rw [List.replicate_succ, List.flatten_cons] at listed
  have run := run_chatterFrame_of_append (instr := instr) atSeek fits (listed.trans (by rw [again]))
  rw [chatterFrame_length] at run
  exact ⟨_, run, ⟨atSeek_skippedTo atSeek _ _ _, fits, again, m, by rw [← again]; rfl⟩, rfl, rfl⟩

theorem run_chattering {instr : Byte} {body : List Byte} {s : State} (chattering : Chattering instr body s) :
    ∃ t, Host.Core.run core 2 s = .next t ∧ Chattering instr body t ∧ t.fvalid = s.fvalid ∧
      t.skipped = s.skipped + BitVec.ofNat 32 (4 + body.length) := by
  obtain ⟨atSeek, fits, again, m, listed⟩ := chattering
  cases m with
  | succ m => exact run_chattering_copies atSeek fits again listed
  | zero =>
    have empty : s.transport.rx = [] := listed
    have available : rxAvailable 3 s.transport = (List.replicate 3 s.transport.again).flatten := by
      rw [rxAvailable, empty, if_pos (by decide), List.nil_append]
    have enough : 3 ≤ (rxAvailable 3 s.transport).length := by
      rw [available, again]
      simp only [List.length_flatten, List.map_replicate, chatterFrame_length, List.sum_replicate, smul_eq_mul]
      omega
    rw [run_congr (step_refill atSeek.waiting atSeek.seeking enough) 1]
    obtain ⟨waiting, seeking, admitted, answers⟩ := atSeek
    exact run_chattering_copies (s := { s with transport := { s.transport with rx := rxAvailable 3 s.transport } })
      ⟨waiting, seeking, admitted, answers⟩ fits again available

theorem run_chattering_many {instr : Byte} {body : List Byte} {s : State} (chattering : Chattering instr body s) (k : Nat) :
    ∃ t, Host.Core.run core (2 * k) s = .next t ∧ Chattering instr body t ∧ t.fvalid = s.fvalid ∧
      t.skipped = s.skipped + BitVec.ofNat 32 (k * (4 + body.length)) := by
  induction k generalizing s with
  | zero => exact ⟨s, rfl, chattering, rfl, by simp⟩
  | succ k ih =>
    obtain ⟨t, first, goesOn, valid, skipped⟩ := run_chattering chattering
    obtain ⟨u, run, still, valid', skipped'⟩ := ih goesOn
    refine ⟨u, ?_, still, valid'.trans valid, ?_⟩
    · rw [Nat.mul_succ, Nat.add_comm, run_add first, run]
    · rw [skipped', skipped, BitVec.add_assoc, ← BitVec.ofNat_add, Nat.succ_mul, Nat.add_comm (k * _)]

/-- Settles O30: every two steps meet one more copy of the frame. -/
theorem endlessChatterNeverEndsCycle : Obligations.EndlessChatterNeverEndsCycle := by
  intro s instr body waiting seeking admitted fits empty answers again k
  obtain ⟨t, run, still, valid, skipped⟩ :=
    run_chattering_many ⟨⟨waiting, seeking, admitted, answers⟩, fits, again, 0, empty⟩ k
  exact ⟨t, run, ⟨still.atSeek.waiting, .inl still.atSeek.seeking⟩, still.atSeek.seeking, valid, skipped⟩

end Sys2Proof.Proofs

/-! PROOF. A read cycle over a finite stream against the pseudocode of the whole cycle (43_framereader.md R179). -/

namespace Sys2Proof.Proofs

open Sys2Proof.Machine Sys2Proof.Laws

/-- The cycle that stood at `s`, its count of skipped bytes being `base` and those counted so far, has ended in `t` as the
pseudocode ends. -/
structure CycleEnded (base : BitVec 32) (s : State) (e : CycleEnd) (t : State) : Prop where
  waiting : t.caller.waiting = false
  requests : t.caller.requests = s.caller.requests
  err : t.err = e.err
  rest : t.transport.rx = e.rest
  cursor : t.transport.cursor + e.rest.length = s.transport.cursor + s.transport.rx.length
  skipped : t.skipped = base + BitVec.ofNat 32 e.skipped
  errN : t.errN.toNat = e.offending.length
  offending : ∀ i b, e.offending[i]? = some b → errByteRead i t = .next b
  found : ∀ f, e.frame = some f → t.st = .frameFound ∧ HoldsFrame t f
  failed : e.frame = none → t.st = .readError ∧ t.fvalid = false ∧ t.flen = 0
  results : t.res = s.res ∧ t.rcnt = s.rcnt ∧ t.rkind = s.rkind

section Ends

variable {base : BitVec 32} {s : State} {left : Transport} {total : Nat}
  (cursor : left.cursor + left.rx.length = s.transport.cursor + s.transport.rx.length)
include cursor

theorem cycleEnded_incomplete {skipped : BitVec 32} (counted : skipped = base + BitVec.ofNat 32 total) :
    CycleEnded base s ⟨none, .incompleteFrame, [], left.rx, total⟩
      (failIncomplete { s with skipped := skipped, transport := left }) where
  waiting := rfl
  requests := rfl
  err := rfl
  rest := rfl
  cursor := cursor
  skipped := counted
  errN := rfl
  offending _ _ h := nomatch h
  found _ h := nomatch h
  failed _ := ⟨rfl, rfl, rfl⟩
  results := ⟨rfl, rfl, rfl⟩

theorem cycleEnded_desync {h : List Byte} (three : h.length ≤ 3) (counted : s.skipped = base + BitVec.ofNat 32 total) :
    CycleEnded base s ⟨none, .readError, h, left.rx, total⟩ (failDesync h { s with transport := left }) where
  waiting := rfl
  requests := rfl
  err := rfl
  rest := rfl
  cursor := cursor
  skipped := counted
  errN := failDesync_errN_toNat three
  offending _ _ stored := errByteRead_failDesync three stored
  found _ h := nomatch h
  failed _ := ⟨rfl, rfl, rfl⟩
  results := ⟨rfl, rfl, rfl⟩

theorem cycleEnded_stored {len : Byte} {body : List Byte} (whole : body.length = len.toNat)
    (counted : s.skipped = base + BitVec.ofNat 32 total) :
    CycleEnded base s ⟨some (realFrame s.cfg.constants len body), .none, [], left.rx, total⟩
      (storedFrame len body { s with transport := left }) where
  waiting := rfl
  requests := rfl
  err := rfl
  rest := rfl
  cursor := cursor
  skipped := counted
  errN := rfl
  offending _ _ h := nomatch h
  found f h := by
    cases h
    exact ⟨rfl, holdsFrame_storedFrame whole⟩
  failed h := nomatch h
  results := ⟨rfl, rfl, rfl⟩

/-- The end of a cycle is the same seen from any earlier state of its chatter loop. -/
theorem cycleEnded_of_skippedTo {k : Nat} {e : CycleEnd} {t : State} (ended : CycleEnded base (skippedTo k left s) e t) :
    CycleEnded base s e t :=
  { ended with cursor := ended.cursor.trans cursor }

end Ends

/-- Step `SEEK` at the end of the stream. -/
theorem step_shortHeader {s : State} (atSeek : AtSeek s) (ends : s.transport.again = [])
    (few : s.transport.rx.length < 3) :
    step s = .next (failDesync s.transport.rx
      { s with transport := advancedTo s.transport.rx.length [] s.transport }) := by
  obtain ⟨header, advanced⟩ := rxTake_ends ends atSeek.answers few
  rw [step_seeking atSeek.waiting atSeek.seeking, header, decodeHeader_short _ few, rxRead, advanced]
  exact exec_hdrDesync (s := { s with transport := advancedTo s.transport.rx.length [] s.transport }) atSeek.admitted _

theorem step_unmarkedHeader {s : State} (atSeek : AtSeek s) {h0 h1 h2 : Byte} {rest : List Byte}
    (stream : s.transport.rx = h0 :: h1 :: h2 :: rest)
    (notChatter : ¬ (h0 = s.cfg.constants.hdrChat ∧ h1 = s.cfg.constants.hdrChat))
    (notReal : ¬ (h0 = s.cfg.constants.hdrReal ∧ h1 = s.cfg.constants.hdrReal)) :
    step s = .next (failDesync [h0, h1, h2] { s with transport := advancedTo 3 rest s.transport }) := by
  rw [step_header atSeek stream, decodeHeader_of_no_marker h2 notChatter notReal]
  exact exec_hdrDesync (s := { s with transport := advancedTo 3 rest s.transport }) atSeek.admitted _

theorem cycleOver_short (k : Constants) (fuel : Nat) {rx : List Byte} (skipped : Nat) (few : rx.length < 3) :
    cycleOver k (fuel + 1) rx skipped = ⟨none, .readError, rx, [], skipped⟩ := by
  match rx, few with
  | [], _ | [_], _ | [_, _], _ => rfl

theorem exists_header {rx : List Byte} (enough : ¬ rx.length < 3) : ∃ h0 h1 h2 r, rx = h0 :: h1 :: h2 :: r := by
  match rx, enough with
  | h0 :: h1 :: h2 :: r, _ => exact ⟨h0, h1, h2, r, rfl⟩
  | [], enough | [_], enough | [_, _], enough => simp at enough

section Header

variable {k : Constants} (fuel : Nat) {h0 h1 : Byte} (h2 : Byte) (skipped : Nat)

section Chatter

variable (chatter : h0 = k.hdrChat ∧ h1 = k.hdrChat)
include chatter

theorem cycleOver_noLength :
    cycleOver k (fuel + 1) [h0, h1, h2] skipped = ⟨none, .incompleteFrame, [], [], skipped + 3⟩ := if_pos chatter

theorem cycleOver_cutChatter {n : Byte} {r : List Byte} (few : r.length < n.toNat) :
    cycleOver k (fuel + 1) (h0 :: h1 :: h2 :: n :: r) skipped =
      ⟨none, .incompleteFrame, [], [], skipped + 4 + r.length⟩ := (if_pos chatter).trans (if_pos few)

theorem cycleOver_chatterFrame {n : Byte} {r : List Byte} (whole : ¬ r.length < n.toNat) :
    cycleOver k (fuel + 1) (h0 :: h1 :: h2 :: n :: r) skipped =
      cycleOver k fuel (r.drop n.toNat) (skipped + 4 + n.toNat) := (if_pos chatter).trans (if_neg whole)

end Chatter

section NoChatter

variable (notChatter : ¬ (h0 = k.hdrChat ∧ h1 = k.hdrChat)) {r : List Byte}
include notChatter

theorem cycleOver_cutFrame (real : h0 = k.hdrReal ∧ h1 = k.hdrReal) (few : r.length < h2.toNat) :
    cycleOver k (fuel + 1) (h0 :: h1 :: h2 :: r) skipped = ⟨none, .incompleteFrame, [], [], skipped⟩ :=
  (if_neg notChatter).trans ((if_pos real).trans (if_pos few))

theorem cycleOver_realFrame (real : h0 = k.hdrReal ∧ h1 = k.hdrReal) (whole : ¬ r.length < h2.toNat) :
    cycleOver k (fuel + 1) (h0 :: h1 :: h2 :: r) skipped =
      ⟨some (h0 :: h1 :: h2 :: r.take h2.toNat), .none, [], r.drop h2.toNat, skipped⟩ :=
  (if_neg notChatter).trans ((if_pos real).trans (if_neg whole))

theorem cycleOver_unmarked (notReal : ¬ (h0 = k.hdrReal ∧ h1 = k.hdrReal)) :
    cycleOver k (fuel + 1) (h0 :: h1 :: h2 :: r) skipped = ⟨none, .readError, [h0, h1, h2], r, skipped⟩ :=
  (if_neg notChatter).trans (if_neg notReal)

end NoChatter

end Header

/-- The steps of a cycle over a stream end as the pseudocode does. -/
def RunsAs (base : BitVec 32) (s : State) (e : CycleEnd) : Prop :=
  ∃ k t, Host.Core.run core k s = .next t ∧ CycleEnded base s e t

section Turn

variable {s : State} {base : BitVec 32} {skipped : Nat} (atSeek : AtSeek s)
  (counted : s.skipped = base + BitVec.ofNat 32 skipped) {h0 h1 h2 : Byte}
include atSeek counted

section ChatterTurn

variable (chatter : h0 = s.cfg.constants.hdrChat ∧ h1 = s.cfg.constants.hdrChat)
include chatter

/-- A chatter header at the end of the stream. -/
theorem runsAs_noLength (fuel : Nat) (ends : s.transport.again = []) (stream : s.transport.rx = [h0, h1, h2]) :
    RunsAs base s (cycleOver s.cfg.constants (fuel + 1) [h0, h1, h2] skipped) := by
  have failed := chatStep_empty (s := chatterSeen [] s) atSeek.admitted atSeek.answers ends rfl
  have run := (run_succ (step_chatterHeader atSeek stream chatter) 1).trans
    (run_one ((step_chatterSeen atSeek []).trans failed))
  refine ⟨2, _, run, ?_⟩
  rw [cycleOver_noLength fuel h2 skipped chatter]
  refine cycleEnded_incomplete (left := advancedTo 3 [] s.transport) (skipped := s.skipped + 3#32) ?_ ?_
  · rw [stream]
    rfl
  · rw [counted, BitVec.add_assoc, ← BitVec.ofNat_add]

theorem runsAs_cutChatter (fuel : Nat) (ends : s.transport.again = []) {n : Byte} {r : List Byte}
    (stream : s.transport.rx = h0 :: h1 :: h2 :: n :: r) (few : r.length < n.toNat) :
    RunsAs base s (cycleOver s.cfg.constants (fuel + 1) (h0 :: h1 :: h2 :: n :: r) skipped) := by
  have failed := chatStep_ends (s := chatterSeen (n :: r) s) atSeek.admitted atSeek.answers ends rfl few
  have run := (run_succ (step_chatterHeader atSeek stream chatter) 1).trans
    (run_one ((step_chatterSeen atSeek _).trans failed))
  refine ⟨2, _, run, ?_⟩
  rw [cycleOver_cutChatter fuel h2 skipped chatter few]
  refine cycleEnded_incomplete
    (left := advancedTo (1 + r.length) [] (advancedTo 3 (n :: r) s.transport))
    (skipped := s.skipped + 3#32 + BitVec.ofNat 32 (1 + r.length)) ?_ ?_
  · rw [stream, advancedTo_advancedTo]
    simp only [advancedTo, List.length_cons, List.length_nil]
    omega
  · rw [counted, BitVec.add_assoc, BitVec.add_assoc, ← BitVec.ofNat_add, ← BitVec.ofNat_add]
    congr 2
    omega

/-- A whole chatter frame is one turn of the loop. -/
theorem runsAs_chatterFrame (fuel : Nat) {n : Byte} {r : List Byte} (stream : s.transport.rx = h0 :: h1 :: h2 :: n :: r)
    (whole : ¬ r.length < n.toNat)
    (loop : ∀ u, u = skippedTo (4 + n.toNat) (advancedTo (4 + n.toNat) (r.drop n.toNat) s.transport) s →
      u.skipped = base + BitVec.ofNat 32 (skipped + 4 + n.toNat) →
      RunsAs base u (cycleOver s.cfg.constants fuel (r.drop n.toNat) (skipped + 4 + n.toNat))) :
    RunsAs base s (cycleOver s.cfg.constants (fuel + 1) (h0 :: h1 :: h2 :: n :: r) skipped) := by
  have turn := run_chatterFrame (body := r.take n.toNat) (rest := r.drop n.toNat) atSeek
    (by rw [stream, List.take_append_drop]) chatter (List.length_take_of_le (Nat.not_lt.mp whole))
  obtain ⟨k, t, run, ended⟩ := loop _ rfl (by
    rw [skippedTo, counted, BitVec.add_assoc, ← BitVec.ofNat_add, Nat.add_assoc])
  rw [cycleOver_chatterFrame fuel h2 skipped chatter whole]
  refine ⟨2 + k, t, (run_add turn k).trans run, cycleEnded_of_skippedTo ?_ ended⟩
  rw [stream]
  simp only [advancedTo, List.length_cons, List.length_drop]
  omega

end ChatterTurn

section FrameTurn

variable (notChatter : ¬ (h0 = s.cfg.constants.hdrChat ∧ h1 = s.cfg.constants.hdrChat)) {r : List Byte}
  (stream : s.transport.rx = h0 :: h1 :: h2 :: r)
include notChatter stream

theorem runsAs_cutFrame (fuel : Nat) (ends : s.transport.again = [])
    (real : h0 = s.cfg.constants.hdrReal ∧ h1 = s.cfg.constants.hdrReal) (few : r.length < h2.toNat) :
    RunsAs base s (cycleOver s.cfg.constants (fuel + 1) (h0 :: h1 :: h2 :: r) skipped) := by
  refine ⟨1, _, run_one (step_cutFrame atSeek notChatter real ends stream few), ?_⟩
  rw [cycleOver_cutFrame fuel h2 skipped notChatter real few]
  refine cycleEnded_incomplete (left := advancedTo (3 + r.length) [] s.transport) ?_ counted
  rw [stream]
  simp only [advancedTo, List.length_cons, List.length_nil]
  omega

theorem runsAs_realFrame (fuel : Nat) (real : h0 = s.cfg.constants.hdrReal ∧ h1 = s.cfg.constants.hdrReal)
    (whole : ¬ r.length < h2.toNat) :
    RunsAs base s (cycleOver s.cfg.constants (fuel + 1) (h0 :: h1 :: h2 :: r) skipped) := by
  have length : (r.take h2.toNat).length = h2.toNat := List.length_take_of_le (Nat.not_lt.mp whole)
  have found := step_realFrame atSeek notChatter real (body := r.take h2.toNat) (rest := r.drop h2.toNat)
    (by rw [stream, List.take_append_drop]) length
  refine ⟨1, _, run_one found, ?_⟩
  rw [cycleOver_realFrame fuel h2 skipped notChatter real whole, real.1, real.2]
  refine cycleEnded_stored (left := advancedTo (3 + h2.toNat) (r.drop h2.toNat) s.transport) ?_ length counted
  rw [stream]
  simp only [advancedTo, List.length_cons, List.length_drop]
  omega

theorem runsAs_unmarked (fuel : Nat) (notReal : ¬ (h0 = s.cfg.constants.hdrReal ∧ h1 = s.cfg.constants.hdrReal)) :
    RunsAs base s (cycleOver s.cfg.constants (fuel + 1) (h0 :: h1 :: h2 :: r) skipped) := by
  refine ⟨1, _, run_one (step_unmarkedHeader atSeek stream notChatter notReal), ?_⟩
  rw [cycleOver_unmarked fuel h2 skipped notChatter notReal]
  refine cycleEnded_desync (left := advancedTo 3 r s.transport) ?_ (Nat.le_refl 3) counted
  rw [stream]
  simp only [advancedTo, List.length_cons]
  omega

end FrameTurn

end Turn

/-- The loop of the pseudocode and the steps of the cycle end alike, turn by turn. -/
theorem runsAs_cycleOver {fuel : Nat} {s : State} {base : BitVec 32} {skipped : Nat} (atSeek : AtSeek s)
    (ends : s.transport.again = []) (enough : s.transport.rx.length < fuel)
    (counted : s.skipped = base + BitVec.ofNat 32 skipped) :
    RunsAs base s (cycleOver s.cfg.constants fuel s.transport.rx skipped) := by
  induction fuel generalizing s skipped with
  | zero => exact absurd enough (Nat.not_lt_zero _)
  | succ fuel ih =>
    by_cases few : s.transport.rx.length < 3
    · rw [cycleOver_short _ _ _ few]
      refine ⟨1, _, run_one (step_shortHeader atSeek ends few), ?_⟩
      exact cycleEnded_desync (left := advancedTo s.transport.rx.length [] s.transport) rfl (by omega) counted
    · obtain ⟨h0, h1, h2, r, stream⟩ := exists_header few
      rw [stream] at enough ⊢
      by_cases chatter : h0 = s.cfg.constants.hdrChat ∧ h1 = s.cfg.constants.hdrChat
      · cases r with
        | nil => exact runsAs_noLength atSeek counted chatter fuel ends stream
        | cons n r =>
          by_cases cut : r.length < n.toNat
          · exact runsAs_cutChatter atSeek counted chatter fuel ends stream cut
          · refine runsAs_chatterFrame atSeek counted chatter fuel stream cut fun u eq counted => ?_
            subst eq
            refine ih (atSeek_skippedTo atSeek _ _ _) ends ?_ counted
            simp only [List.length_cons] at enough
            change (r.drop n.toNat).length < fuel
            rw [List.length_drop]
            omega
      · by_cases real : h0 = s.cfg.constants.hdrReal ∧ h1 = s.cfg.constants.hdrReal
        · by_cases cut : r.length < h2.toNat
          · exact runsAs_cutFrame atSeek counted chatter stream fuel ends real cut
          · exact runsAs_realFrame atSeek counted chatter stream fuel real cut
        · exact runsAs_unmarked atSeek counted chatter stream fuel real

/-- Settles O28: the request brings the block to `SEEK` with nothing counted yet. -/
theorem readFrameRefinesPseudocode : Obligations.ReadFrameRefinesPseudocode := by
  intro s requests requested admitted finite e pseudocode
  obtain ⟨ends, answers⟩ := finite
  have loop : RunsAs s.skipped (startCycle (takeRequest requests s)) e := by
    subst pseudocode
    exact runsAs_cycleOver (skipped := 0) (atSeek_startCycle requests admitted answers) ends (Nat.lt_succ_self _)
      (BitVec.add_zero s.skipped).symm
  obtain ⟨k, t, run, ended⟩ := loop
  obtain ⟨res, rcnt, rkind⟩ := ended.results
  exact ⟨k + 1, t, (run_succ (step_readFrame requested admitted) k).trans run, ended.waiting, ended.requests, ended.err,
    ended.rest, ended.cursor, ended.skipped, ended.errN, ended.offending, ended.found, ended.failed, res, rcnt, rkind⟩

end Sys2Proof.Proofs
